-- ==== Sys2Proof/Word.lean ====
section
/-! DEFINITION. The two word sizes of the block: bytes of the buffer and 32-bit registers (00_scope.md R8, R9). -/

namespace Sys2Proof

/-- A byte of buffer memory (00_scope.md R8). -/
abbrev Byte := BitVec 8

/-- A register value: 32 bits, unsigned (00_scope.md R9). -/
abbrev Word := BitVec 32

end Sys2Proof
end

