-- ==== Sys2Proof/Config.lean ====
section
/-! DEFINITION. What an implementation fixes (00_scope.md R7) and the values the spec leaves open (00_scope.md R12,
"any value"): opaque constants, so that no proof can lean on one value of theirs. -/

namespace Sys2Proof

/-- The value BUF_SIZE holds in `State.reset`: the one the spec's vectors use (00_scope.md R7).
DESIGN CHOICE (log 1, unsafe): any value from 16 to 2^31 is legal; statements are about every value of the field
`bufSize`, not about this one. -/
def Config.bufBytes : Word := 0x00010000#32

/-- Which 4 KiB frame of the host's addresses the registers lie in: OPEN, the platform's choice (00_scope.md R7,
92_eei_decisions.md D4). Log 2, safe. -/
opaque Config.regFrame : Nat

/-- REG_BASE, the host address of register offset 0x000: any multiple of 4096 (00_scope.md R7). Log 2. -/
def Config.regBase : Nat := 0x1000 * Config.regFrame

/-- What the read numbered `draw` returns for the buffer byte at `addr` where nothing was written since power-on:
any value, not necessarily the same at two reads (20_memory.md R90). Log 3, safe. -/
opaque Config.freeByte (draw addr : Nat) : Byte

/-- What the reset numbered `draw` leaves in CUR_CMD: unspecified (10_state.md R46, 70_reset_and_hazards.md R301).
Log 8, safe. -/
opaque Config.freeWord (draw : Nat) : Word

/-- How many host accesses come between the CMD write numbered `draw` and that command's completion: finite,
unspecified, zero or more (70_reset_and_hazards.md R309). Log 5, safe. -/
opaque Config.busyAccesses (draw : Nat) : Nat

end Sys2Proof
end

