-- ==== Sys2Proof/Machine/Port.lean ====
section
/-! DEFINITION. What the outside does to the block: accesses at the host port (20_memory.md R72, R73), the host's two
ways to wait (30_encoding.md R112, 70_reset_and_hazards.md R308), and the reset input (R300). -/

namespace Sys2Proof

/-- The width of a host access. Only 32 bits are inside the interface (20_memory.md R72, R73). -/
inductive AccessWidth where
  | w8
  | w16
  | w32
  deriving DecidableEq, Repr

/-- One host access: a byte offset from REG_BASE (10_state.md R21) and, for a write, the value (20_memory.md R72). -/
inductive HostAccess where
  | read (width : AccessWidth) (offset : Nat)
  | write (width : AccessWidth) (offset : Nat) (value : Word)
  deriving DecidableEq, Repr

/-- One host access as the platform carries it, by host address in place of an offset (00_scope.md R7, 60_exceptions.md
R287). -/
inductive BusAccess where
  | read (width : AccessWidth) (address : Nat)
  | write (width : AccessWidth) (address : Nat) (value : Word)
  deriving DecidableEq, Repr

/-- The host address of a register offset (10_state.md R21). -/
def registerAddress (off : Nat) : Nat := Config.regBase + off

/-- The register offset of a host address; an address below REG_BASE has none (10_state.md R21, log 2). -/
def registerOffset (address : Nat) : Option Nat :=
  if Config.regBase ≤ address then some (address - Config.regBase) else none

/-- An access of the frame as the platform carries it. -/
def HostAccess.onBus : HostAccess → BusAccess
  | .read width off => .read width (registerAddress off)
  | .write width off v => .write width (registerAddress off) v

/-- An access that the platform carries, by its offset from REG_BASE. -/
def BusAccess.inFrame : BusAccess → Option HostAccess
  | .read width address => (registerOffset address).map (.read width ·)
  | .write width address v => (registerOffset address).map (.write width · v)

/-- What the outside does next. -/
inductive HostEvent where
  /-- one access of the host, by its offset (20_memory.md R72) -/
  | access (a : HostAccess)
  /-- one access of the host, by its host address (00_scope.md R7) -/
  | bus (b : BusAccess)
  /-- the host reads STATUS until BUSY reads 0 (30_encoding.md R112) -/
  | poll
  /-- the host makes no access until IRQ is 1 (70_reset_and_hazards.md R308) -/
  | waitIrq
  /-- the reset input RST is asserted and released (70_reset_and_hazards.md R300) -/
  | powerOn
  deriving DecidableEq, Repr

/-- What an operation is written as: a command word, or an access of a register (30_encoding.md R100). -/
inductive Transaction where
  | command (w : Word)
  | access (a : HostAccess)
  deriving DecidableEq, Repr

/-- Why an access is outside the block's interface (20_memory.md R73). The decoder names it; a step refuses by it. -/
inductive PortViolation where
  /-- an access of 8 or 16 bits -/
  | narrow
  /-- an offset that is not a multiple of 4 -/
  | unaligned
  /-- an offset of 0x1000 or more, or a host address below REG_BASE -/
  | outsideFrame
  deriving DecidableEq, Repr

end Sys2Proof
end

