-- ==== Sys2Proof/Syntax.lean ====
section
/-! DEFINITION. The operations of the block (30_encoding.md R100): one constructor for each row of the opcode table,
17 commands, the illegal command word, and 68 register operations. A register write carries the written value `v`.
A row that covers a range of reserved offsets carries the index `k` of the word inside the range. -/

namespace Sys2Proof

/-- One constructor per row of the opcode table, in its order. -/
inductive Instr where
  -- commands (30_encoding.md R106); operands in ARG0 to ARG2 (R105)
  | nop
  | crcReset
  | crcBuf
  | crcBufI
  | crcStore
  | crcCheck
  | adlerReset
  | adlerBuf
  | adlerBufI
  | adlerStore
  | adlerCheck
  | sigWrite
  | sigCheck
  | chunkBuild
  | chunkCheck
  | containerFind
  | chunkFind
  /-- a command word that the opcode map does not hold (30_encoding.md R107 to R110) -/
  | illegal (w : Word)
  -- register operations (30_encoding.md R111)
  | rdId
  | rdCtrl
  | wrCtrl (v : Word)
  | rdStatus
  | wrStatus (v : Word)
  | rdCmd
  | wrCmd (v : Word)
  | rdArg0
  | rdArg1
  | rdArg2
  | wrArg0 (v : Word)
  | wrArg1 (v : Word)
  | wrArg2 (v : Word)
  | rdBufSize
  | rdCrcState
  | wrCrcState (v : Word)
  | rdCrcValue
  | wrCrcValue (v : Word)
  | wrCrcData8 (v : Word)
  | wrCrcData32 (v : Word)
  | rdAdlerValue
  | wrAdlerValue (v : Word)
  | wrAdlerData8 (v : Word)
  | wrAdlerData32 (v : Word)
  | rdBufAddr
  | wrBufAddr (v : Word)
  | rdBufData8
  | wrBufData8 (v : Word)
  | rdBufData32
  | wrBufData32 (v : Word)
  | rdResLen
  | rdResTag
  | rdResData
  | rdResNext
  | rdResCrc
  | rdResCount
  | rdErrInfo
  -- writes of read-only registers (43_control.md R260)
  | wrId (v : Word)
  | wrBufSize (v : Word)
  | wrResLen (v : Word)
  | wrResTag (v : Word)
  | wrResData (v : Word)
  | wrResNext (v : Word)
  | wrResCrc (v : Word)
  | wrResCount (v : Word)
  | wrErrInfo (v : Word)
  -- reads of write-only ports (43_control.md R261)
  | rdCrcData8
  | rdCrcData32
  | rdAdlerData8
  | rdAdlerData32
  -- reserved offsets (43_control.md R263): word k of the range that starts at the offset in the name
  | rdRsv034
  | rdRsv04C
  | rdRsv06C
  | rdRsv070 (k : BitVec 2)
  | rdRsv080 (k : BitVec 5)
  | rdRsv100 (k : BitVec 6)
  | rdRsv200 (k : BitVec 7)
  | rdRsv400 (k : BitVec 8)
  | rdRsv800 (k : BitVec 9)
  | wrRsv034 (v : Word)
  | wrRsv04C (v : Word)
  | wrRsv06C (v : Word)
  | wrRsv070 (k : BitVec 2) (v : Word)
  | wrRsv080 (k : BitVec 5) (v : Word)
  | wrRsv100 (k : BitVec 6) (v : Word)
  | wrRsv200 (k : BitVec 7) (v : Word)
  | wrRsv400 (k : BitVec 8) (v : Word)
  | wrRsv800 (k : BitVec 9) (v : Word)
  deriving DecidableEq, Repr

end Sys2Proof
end

