-- ==== Sys2Proof/WellFormed.lean ====
section
/-! DEFINITION. Which terms of `Instr` are instructions: every one, but for an illegal command whose word is a word of
the opcode map (30_encoding.md R106 to R110). The other fields cannot be out of range: their types bound them. -/

namespace Sys2Proof

/-- The 17 command words of the opcode map (30_encoding.md R106). -/
def commandWords : List Word :=
  [0x00000000#32, 0x00000001#32, 0x00000002#32, 0x00000102#32, 0x00000003#32, 0x00000004#32,
   0x00000008#32, 0x00000009#32, 0x00000109#32, 0x0000000A#32, 0x0000000B#32,
   0x00000010#32, 0x00000011#32, 0x00000012#32, 0x00000013#32, 0x00000014#32, 0x00000015#32]

/-- An illegal command carries a word that is none of the map's; everything else is well formed. -/
def Instr.wf : Instr → Bool
  | .illegal w => !commandWords.contains w
  | _ => true

end Sys2Proof
end

