-- ==== Sys2Proof/Decode.lean ====
section
/-! DEFINITION. Reading operations from their words, and writing them: command words by the opcode map (30_encoding.md
R101 to R110), register accesses by their offset and direction (10_state.md R21, 30_encoding.md R111). -/

namespace Sys2Proof

/-- OP = word[7:0] (30_encoding.md R102). -/
def opField (w : Word) : Byte := w.extractLsb' 0 8

/-- INIT = word[8] (30_encoding.md R103). -/
def initField (w : Word) : Bool := w.getLsbD 8

/-- RSV = word[31:9] (30_encoding.md R104). -/
def rsvField (w : Word) : BitVec 23 := w.extractLsb' 9 23

/-- The command that an OP selects (30_encoding.md R106), and with INIT set for the two that allow it (R103);
`none` where the OP is not in the map or does not allow INIT. -/
def commandOf (op : Byte) (init : Bool) : Option Instr :=
  match op.toNat, init with
  | 0x00, false => some .nop
  | 0x01, false => some .crcReset
  | 0x02, false => some .crcBuf
  | 0x02, true => some .crcBufI
  | 0x03, false => some .crcStore
  | 0x04, false => some .crcCheck
  | 0x08, false => some .adlerReset
  | 0x09, false => some .adlerBuf
  | 0x09, true => some .adlerBufI
  | 0x0A, false => some .adlerStore
  | 0x0B, false => some .adlerCheck
  | 0x10, false => some .sigWrite
  | 0x11, false => some .sigCheck
  | 0x12, false => some .chunkBuild
  | 0x13, false => some .chunkCheck
  | 0x14, false => some .containerFind
  | 0x15, false => some .chunkFind
  | _, _ => none

/-- The command that a word written to CMD stands for: total on all words (30_encoding.md R110). -/
def decodeCommand (w : Word) : Instr :=
  if rsvField w ≠ 0 then .illegal w
  else (commandOf (opField w) (initField w)).getD (.illegal w)

/-- A reserved offset read, from 0x070 on (10_state.md R52): the row of the opcode table whose range holds it. -/
def decodeReservedRead (off : Nat) : Instr :=
  if off < 0x080 then .rdRsv070 (BitVec.ofNat 2 ((off - 0x070) / 4))
  else if off < 0x100 then .rdRsv080 (BitVec.ofNat 5 ((off - 0x080) / 4))
  else if off < 0x200 then .rdRsv100 (BitVec.ofNat 6 ((off - 0x100) / 4))
  else if off < 0x400 then .rdRsv200 (BitVec.ofNat 7 ((off - 0x200) / 4))
  else if off < 0x800 then .rdRsv400 (BitVec.ofNat 8 ((off - 0x400) / 4))
  else .rdRsv800 (BitVec.ofNat 9 ((off - 0x800) / 4))

/-- A reserved offset written, from 0x070 on (10_state.md R52). -/
def decodeReservedWrite (off : Nat) (v : Word) : Instr :=
  if off < 0x080 then .wrRsv070 (BitVec.ofNat 2 ((off - 0x070) / 4)) v
  else if off < 0x100 then .wrRsv080 (BitVec.ofNat 5 ((off - 0x080) / 4)) v
  else if off < 0x200 then .wrRsv100 (BitVec.ofNat 6 ((off - 0x100) / 4)) v
  else if off < 0x400 then .wrRsv200 (BitVec.ofNat 7 ((off - 0x200) / 4)) v
  else if off < 0x800 then .wrRsv400 (BitVec.ofNat 8 ((off - 0x400) / 4)) v
  else .wrRsv800 (BitVec.ofNat 9 ((off - 0x800) / 4)) v

/-- The read at an offset of the frame (10_state.md R21). -/
def decodeRead (off : Nat) : Instr :=
  match off with
  | 0x000 => .rdId
  | 0x004 => .rdCtrl
  | 0x008 => .rdStatus
  | 0x00C => .rdCmd
  | 0x010 => .rdArg0
  | 0x014 => .rdArg1
  | 0x018 => .rdArg2
  | 0x01C => .rdBufSize
  | 0x020 => .rdCrcState
  | 0x024 => .rdCrcValue
  | 0x028 => .rdCrcData8
  | 0x02C => .rdCrcData32
  | 0x030 => .rdAdlerValue
  | 0x034 => .rdRsv034
  | 0x038 => .rdAdlerData8
  | 0x03C => .rdAdlerData32
  | 0x040 => .rdBufAddr
  | 0x044 => .rdBufData8
  | 0x048 => .rdBufData32
  | 0x04C => .rdRsv04C
  | 0x050 => .rdResLen
  | 0x054 => .rdResTag
  | 0x058 => .rdResData
  | 0x05C => .rdResNext
  | 0x060 => .rdResCrc
  | 0x064 => .rdResCount
  | 0x068 => .rdErrInfo
  | 0x06C => .rdRsv06C
  | o => decodeReservedRead o

/-- The write of `v` at an offset of the frame (10_state.md R21). -/
def decodeWrite (off : Nat) (v : Word) : Instr :=
  match off with
  | 0x000 => .wrId v
  | 0x004 => .wrCtrl v
  | 0x008 => .wrStatus v
  | 0x00C => .wrCmd v
  | 0x010 => .wrArg0 v
  | 0x014 => .wrArg1 v
  | 0x018 => .wrArg2 v
  | 0x01C => .wrBufSize v
  | 0x020 => .wrCrcState v
  | 0x024 => .wrCrcValue v
  | 0x028 => .wrCrcData8 v
  | 0x02C => .wrCrcData32 v
  | 0x030 => .wrAdlerValue v
  | 0x034 => .wrRsv034 v
  | 0x038 => .wrAdlerData8 v
  | 0x03C => .wrAdlerData32 v
  | 0x040 => .wrBufAddr v
  | 0x044 => .wrBufData8 v
  | 0x048 => .wrBufData32 v
  | 0x04C => .wrRsv04C v
  | 0x050 => .wrResLen v
  | 0x054 => .wrResTag v
  | 0x058 => .wrResData v
  | 0x05C => .wrResNext v
  | 0x060 => .wrResCrc v
  | 0x064 => .wrResCount v
  | 0x068 => .wrErrInfo v
  | 0x06C => .wrRsv06C v
  | o => decodeReservedWrite o v

/-- Why an access of this width at this offset is outside the interface, if it is (20_memory.md R72, R73). The order of
the three tests is the model's (log 10). -/
def portViolation (width : AccessWidth) (off : Nat) : Option PortViolation :=
  if width ≠ .w32 then some .narrow
  else if off % 4 ≠ 0 then some .unaligned
  else if 0x1000 ≤ off then some .outsideFrame
  else none

/-- The register operation that a host access is, or why the block gives it no meaning (20_memory.md R73). -/
def decodeAccess : HostAccess → Except PortViolation Instr
  | .read width off =>
    match portViolation width off with
    | some why => .error why
    | none => .ok (decodeRead off)
  | .write width off v =>
    match portViolation width off with
    | some why => .error why
    | none => .ok (decodeWrite off v)

/-- The register operation that an access by host address is: the one at its offset from REG_BASE (10_state.md R21). -/
def decodeBus (b : BusAccess) : Except PortViolation Instr :=
  match b.inFrame with
  | some a => decodeAccess a
  | none => .error .outsideFrame

/-- The decoder: total on all transactions. -/
def decode : Transaction → Except PortViolation Instr
  | .command w => .ok (decodeCommand w)
  | .access a => decodeAccess a

/-- A 32-bit read at an offset. -/
def readAt (off : Nat) : Transaction := .access (.read .w32 off)

/-- A 32-bit write at an offset. -/
def writeAt (off : Nat) (v : Word) : Transaction := .access (.write .w32 off v)

/-- The encoder, from the opcode map (30_encoding.md R106) and the register map (10_state.md R21). -/
def encode : Instr → Transaction
  | .nop => .command 0x00000000#32
  | .crcReset => .command 0x00000001#32
  | .crcBuf => .command 0x00000002#32
  | .crcBufI => .command 0x00000102#32
  | .crcStore => .command 0x00000003#32
  | .crcCheck => .command 0x00000004#32
  | .adlerReset => .command 0x00000008#32
  | .adlerBuf => .command 0x00000009#32
  | .adlerBufI => .command 0x00000109#32
  | .adlerStore => .command 0x0000000A#32
  | .adlerCheck => .command 0x0000000B#32
  | .sigWrite => .command 0x00000010#32
  | .sigCheck => .command 0x00000011#32
  | .chunkBuild => .command 0x00000012#32
  | .chunkCheck => .command 0x00000013#32
  | .containerFind => .command 0x00000014#32
  | .chunkFind => .command 0x00000015#32
  | .illegal w => .command w
  | .rdId => readAt 0x000
  | .rdCtrl => readAt 0x004
  | .wrCtrl v => writeAt 0x004 v
  | .rdStatus => readAt 0x008
  | .wrStatus v => writeAt 0x008 v
  | .rdCmd => readAt 0x00C
  | .wrCmd v => writeAt 0x00C v
  | .rdArg0 => readAt 0x010
  | .rdArg1 => readAt 0x014
  | .rdArg2 => readAt 0x018
  | .wrArg0 v => writeAt 0x010 v
  | .wrArg1 v => writeAt 0x014 v
  | .wrArg2 v => writeAt 0x018 v
  | .rdBufSize => readAt 0x01C
  | .rdCrcState => readAt 0x020
  | .wrCrcState v => writeAt 0x020 v
  | .rdCrcValue => readAt 0x024
  | .wrCrcValue v => writeAt 0x024 v
  | .wrCrcData8 v => writeAt 0x028 v
  | .wrCrcData32 v => writeAt 0x02C v
  | .rdAdlerValue => readAt 0x030
  | .wrAdlerValue v => writeAt 0x030 v
  | .wrAdlerData8 v => writeAt 0x038 v
  | .wrAdlerData32 v => writeAt 0x03C v
  | .rdBufAddr => readAt 0x040
  | .wrBufAddr v => writeAt 0x040 v
  | .rdBufData8 => readAt 0x044
  | .wrBufData8 v => writeAt 0x044 v
  | .rdBufData32 => readAt 0x048
  | .wrBufData32 v => writeAt 0x048 v
  | .rdResLen => readAt 0x050
  | .rdResTag => readAt 0x054
  | .rdResData => readAt 0x058
  | .rdResNext => readAt 0x05C
  | .rdResCrc => readAt 0x060
  | .rdResCount => readAt 0x064
  | .rdErrInfo => readAt 0x068
  | .wrId v => writeAt 0x000 v
  | .wrBufSize v => writeAt 0x01C v
  | .wrResLen v => writeAt 0x050 v
  | .wrResTag v => writeAt 0x054 v
  | .wrResData v => writeAt 0x058 v
  | .wrResNext v => writeAt 0x05C v
  | .wrResCrc v => writeAt 0x060 v
  | .wrResCount v => writeAt 0x064 v
  | .wrErrInfo v => writeAt 0x068 v
  | .rdCrcData8 => readAt 0x028
  | .rdCrcData32 => readAt 0x02C
  | .rdAdlerData8 => readAt 0x038
  | .rdAdlerData32 => readAt 0x03C
  | .rdRsv034 => readAt 0x034
  | .rdRsv04C => readAt 0x04C
  | .rdRsv06C => readAt 0x06C
  | .rdRsv070 k => readAt (0x070 + 4 * k.toNat)
  | .rdRsv080 k => readAt (0x080 + 4 * k.toNat)
  | .rdRsv100 k => readAt (0x100 + 4 * k.toNat)
  | .rdRsv200 k => readAt (0x200 + 4 * k.toNat)
  | .rdRsv400 k => readAt (0x400 + 4 * k.toNat)
  | .rdRsv800 k => readAt (0x800 + 4 * k.toNat)
  | .wrRsv034 v => writeAt 0x034 v
  | .wrRsv04C v => writeAt 0x04C v
  | .wrRsv06C v => writeAt 0x06C v
  | .wrRsv070 k v => writeAt (0x070 + 4 * k.toNat) v
  | .wrRsv080 k v => writeAt (0x080 + 4 * k.toNat) v
  | .wrRsv100 k v => writeAt (0x100 + 4 * k.toNat) v
  | .wrRsv200 k v => writeAt (0x200 + 4 * k.toNat) v
  | .wrRsv400 k v => writeAt (0x400 + 4 * k.toNat) v
  | .wrRsv800 k v => writeAt (0x800 + 4 * k.toNat) v

/-- The host access that the bits of a register operation stand for: the 13-bit key of 30_encoding.md R111 in the low 16
bits (bit 12 the direction, bits 11:0 the offset), the written value in bits 47:16. Bits 15:13 are no part of a key: an
access with one of them set is put outside the frame, where the decoder refuses it (log 11). -/
def accessOfBits (w : Nat) : HostAccess :=
  let key := w % 0x10000
  let off := key % 0x1000 + key / 0x2000 * 0x1000
  if key.testBit 12 then .write .w32 off (BitVec.ofNat 32 (w / 0x10000)) else .read .w32 off

/-- The operation of an opcode-table row: rows of 32 bits are command words, rows of 16 bits (13 in whole bytes) register
keys, with 48 bits their written value behind; no row has another length. -/
def decodeTableWord (nbits w : Nat) : Option Instr :=
  if nbits = 32 then some (decodeCommand (BitVec.ofNat 32 w))
  else if nbits = 16 ∨ nbits = 48 then (decodeAccess (accessOfBits w)).toOption
  else none

end Sys2Proof
end

