-- ==== Sys2Proof/Machine/State.lean ====
section
/-! DEFINITION. The state of the block (10_state.md R20), as plain data, and the machine right after reset
(70_reset_and_hazards.md R301). The last four fields are the model's own and no state of the block. -/

namespace Sys2Proof.Machine

/-- The error codes (60_exceptions.md R270). Codes 7 to 15 are reserved and never produced (10_state.md R26). -/
inductive ErrorCode where
  | noError
  | invalidSignature
  | invalidChecksum
  | truncated
  | badLength
  | range
  | badCommand
  deriving DecidableEq, Repr

/-- CTRL, its storage (10_state.md R24): the three interrupt enables. -/
structure Ctrl where
  doneIE : Bool := false
  errIE : Bool := false
  accIE : Bool := false
  deriving DecidableEq, Repr

/-- STATUS, its storage (10_state.md R25). -/
structure Status where
  busy : Bool := false
  done : Bool := false
  err : Bool := false
  found : Bool := false
  accErr : Bool := false
  errCode : ErrorCode := .noError
  deriving DecidableEq, Repr

/-- The six result registers (10_state.md R39 to R44). -/
structure Results where
  len : Word := 0#32
  tag : Word := 0#32
  data : Word := 0#32
  next : Word := 0#32
  crc : Word := 0#32
  count : Word := 0#32
  deriving DecidableEq, Repr

/-- The buffer memory (20_memory.md R70): the bytes written since power-on, by rising address. A byte that is not
listed reads as any value (20_memory.md R90), so no entry can equal what an unlisted address reads as (log 3). -/
abbrev Memory := List Host.Cell

structure State where
  /-- CTRL (10_state.md R24) -/
  ctrl : Ctrl
  /-- STATUS (10_state.md R25) -/
  status : Status
  /-- ARG0 (10_state.md R28) -/
  arg0 : Word
  /-- ARG1 (10_state.md R29) -/
  arg1 : Word
  /-- ARG2 (10_state.md R30) -/
  arg2 : Word
  /-- BUF_SIZE, hard-wired to the parameter BUF_BYTES (10_state.md R31): nothing writes it (log 1) -/
  bufSize : Word
  /-- CRC_STATE (10_state.md R32) -/
  crcState : Word
  /-- ADLER_VALUE (10_state.md R35) -/
  adlerValue : Word
  /-- BUF_ADDR (10_state.md R37) -/
  bufAddr : Word
  /-- RES_LEN to RES_COUNT (10_state.md R39 to R44) -/
  res : Results
  /-- ERR_INFO (10_state.md R45) -/
  errInfo : Word
  /-- CUR_CMD, the hidden command latch (10_state.md R46) -/
  curCmd : Word
  /-- the buffer memory (10_state.md R48) -/
  mem : Memory
  /-- MODEL: what the host and RST do next, oldest first (log 6) -/
  inputs : List HostEvent
  /-- MODEL: how many more host accesses come before the command in flight completes (log 5) -/
  wait : Nat
  /-- MODEL: how many free values were taken so far (log 4) -/
  draws : Nat
  /-- MODEL: the value that the last host read returned (log 7) -/
  readData : Word
  deriving DecidableEq, Repr

/-- Nothing stops the block: it has no trap, and "stuck" is never used (00_scope.md R12). No constructor (log 22). -/
inductive Fault where
  deriving DecidableEq, Repr

/-- Why the model has no next state. -/
inductive Refusal where
  /-- raised by an arm of exec whose instruction has no meaning yet; none does. Safe: no claim holds of the step. -/
  | notModelled (mnemonic : String)
  /-- raised by a step whose host access is outside the interface (20_memory.md R73). Safe: "the refusal errs toward
  unprovable". -/
  | outsideInterface (why : PortViolation)
  deriving DecidableEq, Repr

/-- The machine right after power-on reset (70_reset_and_hazards.md R301). CUR_CMD, unspecified there, is 0: DESIGN
CHOICE, unsafe (log 8). -/
def State.reset : State where
  ctrl := { doneIE := false, errIE := false, accIE := false }
  status := { busy := false, done := false, err := false, found := false, accErr := false, errCode := .noError }
  arg0 := 0x00000000#32
  arg1 := 0x00000000#32
  arg2 := 0x00000000#32
  bufSize := Config.bufBytes
  crcState := 0xFFFFFFFF#32
  adlerValue := 0x00000001#32
  bufAddr := 0x00000000#32
  res := { len := 0#32, tag := 0#32, data := 0#32, next := 0#32, crc := 0#32, count := 0#32 }
  errInfo := 0x00000000#32
  curCmd := 0x00000000#32
  mem := []
  inputs := []
  wait := 0
  draws := 0
  readData := 0x00000000#32

end Sys2Proof.Machine
end

