-- ==== Sys2Proof/Machine/Flags.lean ====
section
/-! DEFINITION. CTRL and STATUS as words, their writes, and the interrupt output (10_state.md R24, R25, R49). -/

namespace Sys2Proof.Machine

/-- The number of an error code (60_exceptions.md R270). -/
def ErrorCode.code : ErrorCode → Word
  | .noError => 0#32
  | .invalidSignature => 1#32
  | .invalidChecksum => 2#32
  | .truncated => 3#32
  | .badLength => 4#32
  | .range => 5#32
  | .badCommand => 6#32

/-- A flag as a word of one bit. -/
def bit (b : Bool) : Word := (BitVec.ofBool b).setWidth 32

/-- What a read of STATUS returns: BUSY, DONE, ERR, FOUND, ACC_ERR in bits 0 to 4, ERRCODE from bit 8, the reserved bits
0 (43_control.md R248). -/
def Status.word (t : Status) : Word :=
  bit t.busy ||| (bit t.done <<< 1) ||| (bit t.err <<< 2) ||| (bit t.found <<< 3) ||| (bit t.accErr <<< 4)
    ||| (t.errCode.code <<< 8)

/-- A write of STATUS: bits 1, 2 and 4 clear DONE, ERR with ERRCODE, and ACC_ERR; the rest is ignored
(43_control.md R249). -/
def Status.w1c (t : Status) (v : Word) : Status :=
  { t with
    done := t.done && !v.getLsbD 1
    err := t.err && !v.getLsbD 2
    errCode := if v.getLsbD 2 then .noError else t.errCode
    accErr := t.accErr && !v.getLsbD 4 }

/-- STATUS after a command's start: BUSY, and DONE, ERR, ERRCODE, FOUND cleared; ACC_ERR stays (43_control.md R240). -/
def Status.started (t : Status) : Status :=
  { t with busy := true, done := false, err := false, errCode := .noError, found := false }

/-- What a read of CTRL returns: the three enables, SRST and the reserved bits 0 (43_control.md R246). -/
def Ctrl.word (c : Ctrl) : Word :=
  bit c.doneIE ||| (bit c.errIE <<< 1) ||| (bit c.accIE <<< 2)

/-- CTRL after a write that is no soft reset: bits 2:0 are stored, the rest discarded (43_control.md R247). -/
def Ctrl.ofWord (v : Word) : Ctrl :=
  { doneIE := v.getLsbD 0, errIE := v.getLsbD 1, accIE := v.getLsbD 2 }

/-- SRST, bit 31 of a word written to CTRL (10_state.md R24). -/
def srstBit (v : Word) : Bool := v.getLsbD 31

/-- The interrupt output (10_state.md R49, 60_exceptions.md R281). -/
def State.irq (s : State) : Bool :=
  (s.status.done && s.ctrl.doneIE) || (s.status.err && s.ctrl.errIE) || (s.status.accErr && s.ctrl.accIE)

end Sys2Proof.Machine
end

