-- ==== Sys2Proof/Machine/Operands.lean ====
section
/-! DEFINITION. The operand forms: whole operand registers (30_encoding.md R105), the low byte of a written word
(40_crc.md R145), and the two byte orders (20_memory.md R74, R75). -/

namespace Sys2Proof.Machine

/-- ARG0 as an address `a` or `p`: an unbounded integer (30_encoding.md R105, 00_scope.md R9). -/
def State.argAddr (s : State) : Nat := s.arg0.toNat

/-- ARG1 as a length `n`, `r` or `L` (30_encoding.md R105). -/
def State.argLen (s : State) : Nat := s.arg1.toNat

/-- ARG2 as a tag, in the big-endian reading (20_memory.md R76). -/
def State.argTag (s : State) : Word := s.arg2

/-- BUF_BYTES as an integer (10_state.md R31). -/
def State.bufBytes (s : State) : Nat := s.bufSize.toNat

/-- `v[7:0]`, what an 8-bit port uses of a written word (40_crc.md R145, 41_rolling.md R171, 43_control.md R255). -/
def lowByte (v : Word) : Byte := v.extractLsb' 0 8

/-- The bytes of a word, least significant first: the order of the window and of the 32-bit data ports
(20_memory.md R75). -/
def bytesLE (v : Word) : List Byte :=
  [v.extractLsb' 0 8, v.extractLsb' 8 8, v.extractLsb' 16 8, v.extractLsb' 24 8]

/-- The bytes of a word, most significant first: what PutBE32 writes (00_scope.md R10, 20_memory.md R74). -/
def bytesBE (v : Word) : List Byte :=
  [v.extractLsb' 24 8, v.extractLsb' 16 8, v.extractLsb' 8 8, v.extractLsb' 0 8]

/-- The word of bytes, the first in its lowest bits (20_memory.md R75); one byte is zero-extended (00_scope.md R10). -/
def packLE : List Byte → Word
  | [] => 0#32
  | b :: bs => (packLE bs <<< 8) ||| b.setWidth 32

/-- The word of four bytes, the first in its highest bits: BE32 (00_scope.md R10). -/
def packBE (b0 b1 b2 b3 : Byte) : Word :=
  (b0.setWidth 32 <<< 24) ||| (b1.setWidth 32 <<< 16) ||| (b2.setWidth 32 <<< 8) ||| b3.setWidth 32

end Sys2Proof.Machine
end

