-- ==== Sys2Proof/Machine/Ops.lean ====
section
/-! DEFINITION. The operations the meanings share: the buffer, the outcome of a command's body, taking an error and
completing, the host's guarded accesses, and the window. -/

namespace Sys2Proof.Machine

/-! ### The buffer's list of written bytes -/

/-- The byte written at an address, if one was. -/
def Memory.lookup : Memory → Nat → Option Byte
  | [], _ => none
  | (b, x) :: m, a => if b = a then some x else Memory.lookup m a

/-- `B[a] <- x`, keeping the list by rising address. -/
def Memory.insert : Memory → Nat → Byte → Memory
  | [], a, x => [(a, x)]
  | (b, y) :: m, a, x =>
    if a < b then (a, x) :: (b, y) :: m
    else if a = b then (a, x) :: m
    else (b, y) :: Memory.insert m a x

/-- The bytes of a list written from `a` on (MemWrite, 00_scope.md R10). -/
def Memory.write : Memory → Nat → List Byte → Memory
  | m, _, [] => m
  | m, a, x :: xs => Memory.write (Memory.insert m a x) (a + 1) xs

/-- The `n` bytes from `a` on made unwritten, so that each reads as any value again. -/
def Memory.forget (m : Memory) (a n : Nat) : Memory :=
  m.filter (fun c => !(decide (a ≤ c.1) && decide (c.1 < a + n)))

/-- The canonical form: addresses strictly rising. -/
def Memory.wf : Memory → Bool
  | [] => true
  | [_] => true
  | c :: d :: m => decide (c.1 < d.1) && Memory.wf (d :: m)

/-! ### Reading and writing buffer bytes -/

/-- One free value was taken. -/
def State.nextDraw (s : State) : State := { s with draws := s.draws + 1 }

/-- `B[a]` as the read numbered `s.draws` sees it: the byte written there, else any value (20_memory.md R90). -/
def State.peek (s : State) (a : Nat) : Byte :=
  match s.mem.lookup a with
  | some x => x
  | none => Config.freeByte s.draws a

/-- `MemRead(a, n)` (00_scope.md R10). Whoever reads takes one draw (`State.nextDraw`), so that the next read of an
unwritten byte is free to differ (log 4). -/
def State.memRead (s : State) (a n : Nat) : List Byte := (List.range' a n).map s.peek

/-- `BE32(a)` (00_scope.md R10). -/
def State.readBE32 (s : State) (a : Nat) : Word :=
  packBE (s.peek a) (s.peek (a + 1)) (s.peek (a + 2)) (s.peek (a + 3))

/-- `MemWrite(a, _, bs)` (00_scope.md R10). -/
def State.memWrite (s : State) (a : Nat) (bs : List Byte) : State := { s with mem := s.mem.write a bs }

/-- `PutBE32(a, v)` (00_scope.md R10). -/
def State.putBE32 (s : State) (a : Nat) (v : Word) : State := s.memWrite a (bytesBE v)

/-- The range rule: the `n` bytes from `a` on lie in the buffer, sums unbounded (20_memory.md R83). -/
def State.inRange (s : State) (a n : Nat) : Bool := decide (a + n ≤ s.bufBytes)

/-! ### A command's body: it is done, or it raised an error (00_scope.md R10, R11) -/

/-- How a command's pseudocode, or a procedure of it, ends: at its end, or at its first `raise`. -/
inductive Run (α : Type) where
  | done (a : α) (s : State)
  | raised (e : ErrorCode) (info : Word) (s : State)
  deriving DecidableEq, Repr

/-- After a procedure that ended without a `raise`, go on; no statement after a `raise` runs (00_scope.md R10). -/
def Run.andThen {α β : Type} (r : Run α) (f : α → State → Run β) : Run β :=
  match r with
  | .done a s => f a s
  | .raised e info s => .raised e info s

/-- Taking an error (60_exceptions.md R277): ERR, ERRCODE and ERR_INFO; nothing else is saved, control goes nowhere. -/
def errorCapture (e : ErrorCode) (info : Word) (s : State) : State :=
  { s with status := { s.status with err := true, errCode := e }, errInfo := info }

/-- The end of the completion step (43_control.md R241): BUSY falls, DONE rises. -/
def State.completed (s : State) : State :=
  { s with status := { s.status with busy := false, done := true } }

/-- The state after the completion step of a command whose body ended so (43_control.md R241). -/
def Run.finish : Run Unit → State
  | .done _ s => s.completed
  | .raised e info s => (errorCapture e info s).completed

/-- The outcome of a command: always a next state (00_scope.md R12). -/
def complete (r : Run Unit) : Host.Outcome State Fault Refusal := .next r.finish

/-- The host's recovery from a failed command, the nearest thing to a return (60_exceptions.md R282): a write of STATUS
clears what it names (43_control.md R249). -/
def statusWrite (s : State) (v : Word) : State := { s with status := s.status.w1c v }

/-- The start of a command by a write of CMD (43_control.md R240). How many accesses will come before its completion is
a free value (70_reset_and_hazards.md R309, log 5). -/
def startCommand (s : State) (w : Word) : State :=
  { s with
    curCmd := w
    status := s.status.started
    wait := Config.busyAccesses s.draws
    draws := s.draws + 1 }

/-! ### Host accesses -/

/-- ACC_ERR is set (60_exceptions.md R280). -/
def State.accError (s : State) : State := { s with status := { s.status with accErr := true } }

/-- A read returns `v` to the host (20_memory.md R72). -/
def State.returns (s : State) (v : Word) : State := { s with readData := v }

/-- A read that the busy engine does not reject (43_control.md R245 to R250, R263). -/
def openRead (v : Word) (s : State) : Host.Outcome State Fault Refusal := .next (s.returns v)

/-- A read that is rejected while BUSY = 1: it returns 0, sets ACC_ERR and does nothing else (43_control.md R262). -/
def guardedRead (f : State → State) (s : State) : Host.Outcome State Fault Refusal :=
  .next (if s.status.busy then (s.returns 0#32).accError else f s)

/-- A write that is rejected while BUSY = 1: it sets ACC_ERR and changes nothing else (43_control.md R262). -/
def guardedWrite (f : State → State) (s : State) : Host.Outcome State Fault Refusal :=
  .next (if s.status.busy then s.accError else f s)

/-! ### The buffer window (43_control.md R255 to R258) -/

/-- A window read of `n` bytes at BUF_ADDR, little-endian, and BUF_ADDR advanced; out of range it returns 0 and sets
ACC_ERR, BUF_ADDR unchanged (43_control.md R256, R258). -/
def windowRead (n : Nat) (s : State) : State :=
  if s.inRange s.bufAddr.toNat n then
    { (s.returns (packLE (s.memRead s.bufAddr.toNat n))).nextDraw with bufAddr := s.bufAddr + BitVec.ofNat 32 n }
  else (s.returns 0#32).accError

/-- A window write of bytes at BUF_ADDR, and BUF_ADDR advanced; out of range nothing is written and ACC_ERR is set
(43_control.md R255, R257). -/
def windowWrite (bs : List Byte) (s : State) : State :=
  if s.inRange s.bufAddr.toNat bs.length then
    { s.memWrite s.bufAddr.toNat bs with bufAddr := s.bufAddr + BitVec.ofNat 32 bs.length }
  else s.accError

end Sys2Proof.Machine
end

