-- ==== Sys2Proof/Machine/Reset.lean ====
section
/-! DEFINITION. Power-on reset, soft reset and abort (70_reset_and_hazards.md R300 to R304). -/

namespace Sys2Proof.Machine

/-- Every register at its reset value (70_reset_and_hazards.md R301). BUF_SIZE is hard-wired; CUR_CMD takes any value
(10_state.md R46); no command is in flight. The buffer is not touched. -/
def registersReset (s : State) : State :=
  { s with
    ctrl := { doneIE := false, errIE := false, accIE := false }
    status := { busy := false, done := false, err := false, found := false, accErr := false, errCode := .noError }
    arg0 := 0x00000000#32
    arg1 := 0x00000000#32
    arg2 := 0x00000000#32
    crcState := 0xFFFFFFFF#32
    adlerValue := 0x00000001#32
    bufAddr := 0x00000000#32
    res := { len := 0#32, tag := 0#32, data := 0#32, next := 0#32, crc := 0#32, count := 0#32 }
    errInfo := 0x00000000#32
    curCmd := Config.freeWord s.draws
    wait := 0
    draws := s.draws + 1 }

/-- The write set of the command in flight: the spans (first address, length) that it would write if it completed, none
where its checks fail (70_reset_and_hazards.md R303). -/
def writeSet (s : State) : List (Nat × Nat) :=
  let a := s.argAddr
  let n := s.argLen
  match decodeCommand s.curCmd with
  | .crcStore => if s.inRange a 4 then [(a, 4)] else []
  | .adlerStore => if s.inRange a 4 then [(a, 4)] else []
  | .sigWrite => if s.inRange a 8 then [(a, 8)] else []
  | .chunkBuild =>
    if n ≤ 0x7FFFFFFF && s.inRange a (12 + n) then [(a, 8), (a + 8 + n, 4)] else []
  | _ => []

/-- The bytes of the spans become any value (70_reset_and_hazards.md R303): unwritten again (log 9). -/
def forgetSpans (m : Memory) (spans : List (Nat × Nat)) : Memory :=
  spans.foldl (fun m sp => m.forget sp.1 sp.2) m

/-- Abort() (70_reset_and_hazards.md R303), as far as it concerns the buffer. -/
def abort (s : State) : State := { s with mem := forgetSpans s.mem (writeSet s) }

/-- SoftReset() (70_reset_and_hazards.md R302). -/
def softReset (s : State) : State := registersReset (if s.status.busy then abort s else s)

/-- Power-on reset: as a soft reset, and every buffer byte is any value (70_reset_and_hazards.md R300). -/
def powerOnReset (s : State) : State := { registersReset s with mem := [] }

end Sys2Proof.Machine
end

