-- ==== Sys2Proof/Machine/Control.lean ====
section
/-! DEFINITION. Command control and the host's register operations (43_control.md). -/

namespace Sys2Proof.Machine

/-- The constant of the ID register (10_state.md R23). -/
def idValue : Word := 0x434B4631#32

/-- A write that changes nothing whether the engine is busy or not (43_control.md R260, R263). -/
def ignoredWrite (s : State) : Host.Outcome State Fault Refusal := .next s

/-- NOP (43_control.md R243). -/
def execNop (s : State) : Host.Outcome State Fault Refusal := complete (.done () s)

/-- An illegal command word: BAD_COMMAND with the word (43_control.md R244). -/
def execIllegal (w : Word) (s : State) : Host.Outcome State Fault Refusal := complete (.raised .badCommand w s)

/-- Read ID (43_control.md R245). -/
def execRdId (s : State) : Host.Outcome State Fault Refusal := openRead idValue s

/-- Read CTRL (43_control.md R246). -/
def execRdCtrl (s : State) : Host.Outcome State Fault Refusal := openRead s.ctrl.word s

/-- Write CTRL (43_control.md R247). -/
def execWrCtrl (v : Word) (s : State) : Host.Outcome State Fault Refusal :=
  .next (if srstBit v then softReset s else { s with ctrl := Ctrl.ofWord v })

/-- Read STATUS (43_control.md R248). -/
def execRdStatus (s : State) : Host.Outcome State Fault Refusal := openRead s.status.word s

/-- Write STATUS (43_control.md R249). -/
def execWrStatus (v : Word) (s : State) : Host.Outcome State Fault Refusal := .next (statusWrite s v)

/-- Read CMD (43_control.md R264). -/
def execRdCmd (s : State) : Host.Outcome State Fault Refusal := guardedRead (fun s => s.returns 0#32) s

/-- Write CMD (43_control.md R240). -/
def execWrCmd (v : Word) (s : State) : Host.Outcome State Fault Refusal := guardedWrite (fun s => startCommand s v) s

/-- Read ARG0 (43_control.md R251). -/
def execRdArg0 (s : State) : Host.Outcome State Fault Refusal := guardedRead (fun s => s.returns s.arg0) s

/-- Read ARG1 (43_control.md R251). -/
def execRdArg1 (s : State) : Host.Outcome State Fault Refusal := guardedRead (fun s => s.returns s.arg1) s

/-- Read ARG2 (43_control.md R251). -/
def execRdArg2 (s : State) : Host.Outcome State Fault Refusal := guardedRead (fun s => s.returns s.arg2) s

/-- Write ARG0 (43_control.md R252). -/
def execWrArg0 (v : Word) (s : State) : Host.Outcome State Fault Refusal :=
  guardedWrite (fun s => { s with arg0 := v }) s

/-- Write ARG1 (43_control.md R252). -/
def execWrArg1 (v : Word) (s : State) : Host.Outcome State Fault Refusal :=
  guardedWrite (fun s => { s with arg1 := v }) s

/-- Write ARG2 (43_control.md R252). -/
def execWrArg2 (v : Word) (s : State) : Host.Outcome State Fault Refusal :=
  guardedWrite (fun s => { s with arg2 := v }) s

/-- Read BUF_SIZE (43_control.md R250). -/
def execRdBufSize (s : State) : Host.Outcome State Fault Refusal := openRead s.bufSize s

/-- Read BUF_ADDR (43_control.md R253). -/
def execRdBufAddr (s : State) : Host.Outcome State Fault Refusal := guardedRead (fun s => s.returns s.bufAddr) s

/-- Write BUF_ADDR (43_control.md R254). -/
def execWrBufAddr (v : Word) (s : State) : Host.Outcome State Fault Refusal :=
  guardedWrite (fun s => { s with bufAddr := v }) s

/-- Read BUF_DATA8 (43_control.md R256). -/
def execRdBufData8 (s : State) : Host.Outcome State Fault Refusal := guardedRead (windowRead 1) s

/-- Write BUF_DATA8 (43_control.md R255). -/
def execWrBufData8 (v : Word) (s : State) : Host.Outcome State Fault Refusal :=
  guardedWrite (windowWrite [lowByte v]) s

/-- Read BUF_DATA32 (43_control.md R258). -/
def execRdBufData32 (s : State) : Host.Outcome State Fault Refusal := guardedRead (windowRead 4) s

/-- Write BUF_DATA32 (43_control.md R257). -/
def execWrBufData32 (v : Word) (s : State) : Host.Outcome State Fault Refusal :=
  guardedWrite (windowWrite (bytesLE v)) s

/-- Read ERR_INFO (43_control.md R259). -/
def execRdErrInfo (s : State) : Host.Outcome State Fault Refusal := guardedRead (fun s => s.returns s.errInfo) s

/-- Write ID, read-only: ignored, even while BUSY = 1 (43_control.md R260). -/
def execWrId (_ : Word) (s : State) : Host.Outcome State Fault Refusal := ignoredWrite s

/-- Write BUF_SIZE, read-only: ignored, even while BUSY = 1 (43_control.md R260). -/
def execWrBufSize (_ : Word) (s : State) : Host.Outcome State Fault Refusal := ignoredWrite s

/-- Write ERR_INFO, read-only: ignored (43_control.md R260). -/
def execWrErrInfo (_ : Word) (s : State) : Host.Outcome State Fault Refusal := guardedWrite id s

/-! ### Reserved offsets read 0 and ignore writes, busy or not (43_control.md R263) -/

/-- Read the reserved offset 0x034 (43_control.md R263). -/
def execRdRsv034 (s : State) : Host.Outcome State Fault Refusal := openRead 0#32 s

/-- Read the reserved offset 0x04C (43_control.md R263). -/
def execRdRsv04C (s : State) : Host.Outcome State Fault Refusal := openRead 0#32 s

/-- Read the reserved offset 0x06C (43_control.md R263). -/
def execRdRsv06C (s : State) : Host.Outcome State Fault Refusal := openRead 0#32 s

/-- Read word k of the reserved range at 0x070 (43_control.md R263). -/
def execRdRsv070 (_ : BitVec 2) (s : State) : Host.Outcome State Fault Refusal := openRead 0#32 s

/-- Read word k of the reserved range at 0x080 (43_control.md R263). -/
def execRdRsv080 (_ : BitVec 5) (s : State) : Host.Outcome State Fault Refusal := openRead 0#32 s

/-- Read word k of the reserved range at 0x100 (43_control.md R263). -/
def execRdRsv100 (_ : BitVec 6) (s : State) : Host.Outcome State Fault Refusal := openRead 0#32 s

/-- Read word k of the reserved range at 0x200 (43_control.md R263). -/
def execRdRsv200 (_ : BitVec 7) (s : State) : Host.Outcome State Fault Refusal := openRead 0#32 s

/-- Read word k of the reserved range at 0x400 (43_control.md R263). -/
def execRdRsv400 (_ : BitVec 8) (s : State) : Host.Outcome State Fault Refusal := openRead 0#32 s

/-- Read word k of the reserved range at 0x800 (43_control.md R263). -/
def execRdRsv800 (_ : BitVec 9) (s : State) : Host.Outcome State Fault Refusal := openRead 0#32 s

/-- Write the reserved offset 0x034 (43_control.md R263). -/
def execWrRsv034 (_ : Word) (s : State) : Host.Outcome State Fault Refusal := ignoredWrite s

/-- Write the reserved offset 0x04C (43_control.md R263). -/
def execWrRsv04C (_ : Word) (s : State) : Host.Outcome State Fault Refusal := ignoredWrite s

/-- Write the reserved offset 0x06C (43_control.md R263). -/
def execWrRsv06C (_ : Word) (s : State) : Host.Outcome State Fault Refusal := ignoredWrite s

/-- Write word k of the reserved range at 0x070 (43_control.md R263). -/
def execWrRsv070 (_ : BitVec 2) (_ : Word) (s : State) : Host.Outcome State Fault Refusal := ignoredWrite s

/-- Write word k of the reserved range at 0x080 (43_control.md R263). -/
def execWrRsv080 (_ : BitVec 5) (_ : Word) (s : State) : Host.Outcome State Fault Refusal := ignoredWrite s

/-- Write word k of the reserved range at 0x100 (43_control.md R263). -/
def execWrRsv100 (_ : BitVec 6) (_ : Word) (s : State) : Host.Outcome State Fault Refusal := ignoredWrite s

/-- Write word k of the reserved range at 0x200 (43_control.md R263). -/
def execWrRsv200 (_ : BitVec 7) (_ : Word) (s : State) : Host.Outcome State Fault Refusal := ignoredWrite s

/-- Write word k of the reserved range at 0x400 (43_control.md R263). -/
def execWrRsv400 (_ : BitVec 8) (_ : Word) (s : State) : Host.Outcome State Fault Refusal := ignoredWrite s

/-- Write word k of the reserved range at 0x800 (43_control.md R263). -/
def execWrRsv800 (_ : BitVec 9) (_ : Word) (s : State) : Host.Outcome State Fault Refusal := ignoredWrite s

end Sys2Proof.Machine
end

