-- ==== Sys2Proof/Machine/Crc.lean ====
section
/-! DEFINITION. The CRC-32 engine (40_crc.md). -/

namespace Sys2Proof.Machine

/-- The reflected polynomial (40_crc.md R130). -/
def crcPoly : Word := 0xEDB88320#32

/-- The initial internal state, and the complement of the exposed value (40_crc.md R133). -/
def crcInit : Word := 0xFFFFFFFF#32

/-- One of the eight steps of table generation (40_crc.md R131). -/
def crcShift (v : Word) : Word := if v.getLsbD 0 then (v >>> 1) ^^^ crcPoly else v >>> 1

/-- T[n], the constant table as a function of its index (40_crc.md R131, 10_state.md R47, log 19). -/
def crcTable (n : Byte) : Word :=
  crcShift (crcShift (crcShift (crcShift (crcShift (crcShift (crcShift (crcShift (n.setWidth 32))))))))

/-- CrcByte(s, x) (40_crc.md R134). -/
def crcByte (s : Word) (x : Byte) : Word := crcTable ((s ^^^ x.setWidth 32).extractLsb' 0 8) ^^^ (s >>> 8)

/-- CrcUpdate(s, d) (40_crc.md R135). -/
def crcUpdate (s : Word) (d : List Byte) : Word := d.foldl crcByte s

/-- The exposed value of an internal state, and the internal state of an exposed value (40_crc.md R133). -/
def crcExposed (s : Word) : Word := s ^^^ 0xFFFFFFFF#32

/-- Crc32(d) (40_crc.md R136). -/
def crc32 (d : List Byte) : Word := crcExposed (crcUpdate crcInit d)

/-- The body of CRC_BUF and CRC_BUF.I (40_crc.md R138). -/
def crcBufBody (init : Bool) (s : State) : Run Unit :=
  if s.inRange s.argAddr s.argLen then
    .done () { s.nextDraw with
      crcState := crcUpdate (if init then crcInit else s.crcState) (s.memRead s.argAddr s.argLen) }
  else .raised .range s.arg0 s

/-- Write `v` big-endian at ARG0: the body of CRC_STORE and ADLER_STORE (40_crc.md R139, 41_rolling.md R167). -/
def storeTrailer (v : Word) (s : State) : Run Unit :=
  if s.inRange s.argAddr 4 then .done () (s.putBE32 s.argAddr v)
  else .raised .range s.arg0 s

/-- Compare `v` with the big-endian trailer at ARG0: the body of CRC_CHECK and ADLER_CHECK (40_crc.md R140,
41_rolling.md R168). -/
def checkTrailer (v : Word) (s : State) : Run Unit :=
  if s.inRange s.argAddr 4 then
    if s.readBE32 s.argAddr = v then .done () s.nextDraw else .raised .invalidChecksum s.arg0 s.nextDraw
  else .raised .range s.arg0 s

/-- CRC_RESET (40_crc.md R137). -/
def execCrcReset (s : State) : Host.Outcome State Fault Refusal :=
  complete (.done () { s with crcState := crcInit })

/-- CRC_BUF (40_crc.md R138). -/
def execCrcBuf (s : State) : Host.Outcome State Fault Refusal := complete (crcBufBody false s)

/-- CRC_BUF.I (40_crc.md R138). -/
def execCrcBufI (s : State) : Host.Outcome State Fault Refusal := complete (crcBufBody true s)

/-- CRC_STORE (40_crc.md R139). -/
def execCrcStore (s : State) : Host.Outcome State Fault Refusal :=
  complete (storeTrailer (crcExposed s.crcState) s)

/-- CRC_CHECK (40_crc.md R140). -/
def execCrcCheck (s : State) : Host.Outcome State Fault Refusal :=
  complete (checkTrailer (crcExposed s.crcState) s)

/-- Read CRC_STATE (40_crc.md R141). -/
def execRdCrcState (s : State) : Host.Outcome State Fault Refusal := guardedRead (fun s => s.returns s.crcState) s

/-- Write CRC_STATE (40_crc.md R142). -/
def execWrCrcState (v : Word) (s : State) : Host.Outcome State Fault Refusal :=
  guardedWrite (fun s => { s with crcState := v }) s

/-- Read CRC_VALUE (40_crc.md R143). -/
def execRdCrcValue (s : State) : Host.Outcome State Fault Refusal :=
  guardedRead (fun s => s.returns (crcExposed s.crcState)) s

/-- Write CRC_VALUE (40_crc.md R144). -/
def execWrCrcValue (v : Word) (s : State) : Host.Outcome State Fault Refusal :=
  guardedWrite (fun s => { s with crcState := crcExposed v }) s

/-- Write CRC_DATA8 (40_crc.md R145). -/
def execWrCrcData8 (v : Word) (s : State) : Host.Outcome State Fault Refusal :=
  guardedWrite (fun s => { s with crcState := crcByte s.crcState (lowByte v) }) s

/-- Write CRC_DATA32 (40_crc.md R146). -/
def execWrCrcData32 (v : Word) (s : State) : Host.Outcome State Fault Refusal :=
  guardedWrite (fun s => { s with crcState := crcUpdate s.crcState (bytesLE v) }) s

/-- Read CRC_DATA8, a write-only port (43_control.md R261). -/
def execRdCrcData8 (s : State) : Host.Outcome State Fault Refusal := guardedRead (fun s => s.returns 0#32) s

/-- Read CRC_DATA32, a write-only port (43_control.md R261). -/
def execRdCrcData32 (s : State) : Host.Outcome State Fault Refusal := guardedRead (fun s => s.returns 0#32) s

end Sys2Proof.Machine
end

