-- ==== Sys2Proof/Machine/Framing.lean ====
section
/-! DEFINITION. The framed-record builder and parser (42_framing.md). -/

namespace Sys2Proof.Machine

/-- SIG (42_framing.md R193). -/
def signature : List Byte := [0x89#8, 0x50#8, 0x4E#8, 0x47#8, 0x0D#8, 0x0A#8, 0x1A#8, 0x0A#8]

/-- The largest legal length (42_framing.md R195). -/
def maxLength : Nat := 0x7FFFFFFF

/-- A frame command begins: the six result registers are 0 (42_framing.md R198). -/
def clearResults (s : State) : State :=
  { s with res := { len := 0#32, tag := 0#32, data := 0#32, next := 0#32, crc := 0#32, count := 0#32 } }

/-- The five registers that describe a record at `p` with length `n` (42_framing.md R196); RES_COUNT stays. -/
def reportRecord (p n : Nat) (tag c : Word) (s : State) : State :=
  { s with res := { s.res with
      len := BitVec.ofNat 32 n, tag := tag, data := BitVec.ofNat 32 (p + 8),
      next := BitVec.ofNat 32 (p + 12 + n), crc := c } }

/-- RES_COUNT <- RES_COUNT + 1 (42_framing.md R196). -/
def countRecord (s : State) : State := { s with res := { s.res with count := s.res.count + 1#32 } }

/-- STATUS.FOUND <- b (42_framing.md R197). -/
def State.setFound (s : State) (b : Bool) : State := { s with status := { s.status with found := b } }

/-- CheckRecord(p, end) (42_framing.md R196): the length and tag of a good record at `p`. -/
def checkRecord (p stop : Nat) (s : State) : Run (Nat × Word) :=
  let r := stop - p
  if r < 12 then .raised .truncated (BitVec.ofNat 32 p) s
  else
    let n := (s.readBE32 p).toNat
    let s1 := s.nextDraw
    if n > maxLength then .raised .badLength (BitVec.ofNat 32 p) s1
    else if n > r - 12 then .raised .truncated (BitVec.ofNat 32 p) s1
    else
      let tag := s1.readBE32 (p + 4)
      let s2 := s1.nextDraw
      let c := crc32 (s2.memRead (p + 4) (4 + n))
      let s3 := reportRecord p n tag c s2.nextDraw
      let stored := s3.readBE32 (p + 8 + n)
      let s4 := s3.nextDraw
      if c = stored then .done (n, tag) (countRecord s4)
      else .raised .invalidChecksum (BitVec.ofNat 32 p) s4

/-- Walk(p, end, target) (42_framing.md R197). `fuel` is at least the bytes left, `stop - cursor`: each record takes 12
or more (R215), so it never runs out before the region does. -/
def walk : Nat → Nat → Nat → Word → State → Run Unit
  | 0, _, _, _, s => .done () (s.setFound false)
  | fuel + 1, cursor, stop, target, s =>
    if cursor < stop then
      (checkRecord cursor stop s).andThen fun hit s' =>
        if hit.2 = target then .done () (s'.setFound true)
        else walk fuel (cursor + 12 + hit.1) stop target s'
    else .done () (s.setFound false)

/-- The body of SIG_WRITE (42_framing.md R199). -/
def sigWriteBody (s : State) : Run Unit :=
  if s.inRange s.argAddr 8 then .done () (s.memWrite s.argAddr signature)
  else .raised .range s.arg0 s

/-- The body of SIG_CHECK (42_framing.md R200). -/
def sigCheckBody (s : State) : Run Unit :=
  if s.inRange s.argAddr 8 then
    if s.memRead s.argAddr 8 = signature then .done () s.nextDraw else .raised .invalidSignature s.arg0 s.nextDraw
  else .raised .range s.arg0 s

/-- The body of CHUNK_BUILD (42_framing.md R201). -/
def chunkBuildBody (s₀ : State) : Run Unit :=
  let s := clearResults s₀
  let p := s.argAddr
  let n := s.argLen
  if n > maxLength then .raised .badLength s.arg0 s
  else if s.inRange p (12 + n) then
    let s1 := (s.putBE32 p s.arg1).putBE32 (p + 4) s.argTag
    let c := crc32 (s1.memRead (p + 4) (4 + n))
    let s2 := (s1.nextDraw).putBE32 (p + 8 + n) c
    .done () (countRecord (reportRecord p n s.argTag c s2))
  else .raised .range s.arg0 s

/-- The body of CHUNK_CHECK (42_framing.md R202). -/
def chunkCheckBody (s₀ : State) : Run Unit :=
  let s := clearResults s₀
  if s.inRange s.argAddr s.argLen then
    (checkRecord s.argAddr (s.argAddr + s.argLen) s).andThen fun _ s' => .done () s'
  else .raised .range s.arg0 s

/-- The body of CONTAINER_FIND (42_framing.md R203). -/
def containerFindBody (s₀ : State) : Run Unit :=
  let s := clearResults s₀
  let a := s.argAddr
  let len := s.argLen
  if s.inRange a len then
    if len < 8 then .raised .invalidSignature s.arg0 s
    else if s.memRead a 8 = signature then walk (len - 8) (a + 8) (a + len) s.argTag s.nextDraw
    else .raised .invalidSignature s.arg0 s.nextDraw
  else .raised .range s.arg0 s

/-- The body of CHUNK_FIND (42_framing.md R205). -/
def chunkFindBody (s₀ : State) : Run Unit :=
  let s := clearResults s₀
  if s.inRange s.argAddr s.argLen then
    walk s.argLen s.argAddr (s.argAddr + s.argLen) s.argTag s
  else .raised .range s.arg0 s

/-- SIG_WRITE (42_framing.md R199). -/
def execSigWrite (s : State) : Host.Outcome State Fault Refusal := complete (sigWriteBody s)

/-- SIG_CHECK (42_framing.md R200). -/
def execSigCheck (s : State) : Host.Outcome State Fault Refusal := complete (sigCheckBody s)

/-- CHUNK_BUILD (42_framing.md R201). -/
def execChunkBuild (s : State) : Host.Outcome State Fault Refusal := complete (chunkBuildBody s)

/-- CHUNK_CHECK (42_framing.md R202). -/
def execChunkCheck (s : State) : Host.Outcome State Fault Refusal := complete (chunkCheckBody s)

/-- CONTAINER_FIND (42_framing.md R203). -/
def execContainerFind (s : State) : Host.Outcome State Fault Refusal := complete (containerFindBody s)

/-- CHUNK_FIND (42_framing.md R205). -/
def execChunkFind (s : State) : Host.Outcome State Fault Refusal := complete (chunkFindBody s)

/-- Read RES_LEN (42_framing.md R209). -/
def execRdResLen (s : State) : Host.Outcome State Fault Refusal := guardedRead (fun s => s.returns s.res.len) s

/-- Read RES_TAG (42_framing.md R210). -/
def execRdResTag (s : State) : Host.Outcome State Fault Refusal := guardedRead (fun s => s.returns s.res.tag) s

/-- Read RES_DATA (42_framing.md R211). -/
def execRdResData (s : State) : Host.Outcome State Fault Refusal := guardedRead (fun s => s.returns s.res.data) s

/-- Read RES_NEXT (42_framing.md R212). -/
def execRdResNext (s : State) : Host.Outcome State Fault Refusal := guardedRead (fun s => s.returns s.res.next) s

/-- Read RES_CRC (42_framing.md R213). -/
def execRdResCrc (s : State) : Host.Outcome State Fault Refusal := guardedRead (fun s => s.returns s.res.crc) s

/-- Read RES_COUNT (42_framing.md R214). -/
def execRdResCount (s : State) : Host.Outcome State Fault Refusal := guardedRead (fun s => s.returns s.res.count) s

/-- Write RES_LEN, read-only: ignored (43_control.md R260). -/
def execWrResLen (_ : Word) (s : State) : Host.Outcome State Fault Refusal := guardedWrite id s

/-- Write RES_TAG, read-only: ignored (43_control.md R260). -/
def execWrResTag (_ : Word) (s : State) : Host.Outcome State Fault Refusal := guardedWrite id s

/-- Write RES_DATA, read-only: ignored (43_control.md R260). -/
def execWrResData (_ : Word) (s : State) : Host.Outcome State Fault Refusal := guardedWrite id s

/-- Write RES_NEXT, read-only: ignored (43_control.md R260). -/
def execWrResNext (_ : Word) (s : State) : Host.Outcome State Fault Refusal := guardedWrite id s

/-- Write RES_CRC, read-only: ignored (43_control.md R260). -/
def execWrResCrc (_ : Word) (s : State) : Host.Outcome State Fault Refusal := guardedWrite id s

/-- Write RES_COUNT, read-only: ignored (43_control.md R260). -/
def execWrResCount (_ : Word) (s : State) : Host.Outcome State Fault Refusal := guardedWrite id s

end Sys2Proof.Machine
end

