-- ==== Sys2Proof/Machine/Rolling.lean ====
section
/-! DEFINITION. The rolling dual-sum checksum engine (41_rolling.md). -/

namespace Sys2Proof.Machine

/-- The modulus (41_rolling.md R160). -/
def adlerMod : Nat := 65521

/-- ADLER_INIT (41_rolling.md R164; general knowledge of the spec's, log 12). -/
def adlerInit : Word := 0x00000001#32

/-- The low sum of a packed value (41_rolling.md R161). -/
def adlerLow (v : Word) : Nat := (v &&& 0xFFFF#32).toNat

/-- The high sum of a packed value (41_rolling.md R161). -/
def adlerHigh (v : Word) : Nat := ((v >>> 16) &&& 0xFFFF#32).toNat

/-- AdlerByte(v, x): the second sum takes the new low (41_rolling.md R162). -/
def adlerByte (v : Word) (x : Byte) : Word :=
  let low := (adlerLow v + x.toNat) % adlerMod
  let high := (adlerHigh v + low) % adlerMod
  (BitVec.ofNat 32 high <<< 16) ||| BitVec.ofNat 32 low

/-- AdlerUpdate(v, d): of no bytes it is `v`, not reduced (41_rolling.md R163, R174). -/
def adlerUpdate (v : Word) (d : List Byte) : Word := d.foldl adlerByte v

/-- The body of ADLER_BUF and ADLER_BUF.I (41_rolling.md R166). -/
def adlerBufBody (init : Bool) (s : State) : Run Unit :=
  if s.inRange s.argAddr s.argLen then
    .done () { s.nextDraw with
      adlerValue := adlerUpdate (if init then adlerInit else s.adlerValue) (s.memRead s.argAddr s.argLen) }
  else .raised .range s.arg0 s

/-- ADLER_RESET (41_rolling.md R165). -/
def execAdlerReset (s : State) : Host.Outcome State Fault Refusal :=
  complete (.done () { s with adlerValue := adlerInit })

/-- ADLER_BUF (41_rolling.md R166). -/
def execAdlerBuf (s : State) : Host.Outcome State Fault Refusal := complete (adlerBufBody false s)

/-- ADLER_BUF.I (41_rolling.md R166). -/
def execAdlerBufI (s : State) : Host.Outcome State Fault Refusal := complete (adlerBufBody true s)

/-- ADLER_STORE (41_rolling.md R167). -/
def execAdlerStore (s : State) : Host.Outcome State Fault Refusal := complete (storeTrailer s.adlerValue s)

/-- ADLER_CHECK (41_rolling.md R168). -/
def execAdlerCheck (s : State) : Host.Outcome State Fault Refusal := complete (checkTrailer s.adlerValue s)

/-- Read ADLER_VALUE (41_rolling.md R169). -/
def execRdAdlerValue (s : State) : Host.Outcome State Fault Refusal :=
  guardedRead (fun s => s.returns s.adlerValue) s

/-- Write ADLER_VALUE, stored as written (41_rolling.md R170, R174). -/
def execWrAdlerValue (v : Word) (s : State) : Host.Outcome State Fault Refusal :=
  guardedWrite (fun s => { s with adlerValue := v }) s

/-- Write ADLER_DATA8 (41_rolling.md R171). -/
def execWrAdlerData8 (v : Word) (s : State) : Host.Outcome State Fault Refusal :=
  guardedWrite (fun s => { s with adlerValue := adlerByte s.adlerValue (lowByte v) }) s

/-- Write ADLER_DATA32 (41_rolling.md R172). -/
def execWrAdlerData32 (v : Word) (s : State) : Host.Outcome State Fault Refusal :=
  guardedWrite (fun s => { s with adlerValue := adlerUpdate s.adlerValue (bytesLE v) }) s

/-- Read ADLER_DATA8, a write-only port (43_control.md R261). -/
def execRdAdlerData8 (s : State) : Host.Outcome State Fault Refusal := guardedRead (fun s => s.returns 0#32) s

/-- Read ADLER_DATA32, a write-only port (43_control.md R261). -/
def execRdAdlerData32 (s : State) : Host.Outcome State Fault Refusal := guardedRead (fun s => s.returns 0#32) s

end Sys2Proof.Machine
end

