-- ==== Sys2Proof/Machine/Dispatch.lean ====
section
/-! DEFINITION. One arm per instruction, each one call of its meaning. -/

namespace Sys2Proof.Machine

def exec (i : Instr) (s : State) : Host.Outcome State Fault Refusal :=
  match i with
  | .nop => Sys2Proof.Machine.execNop s
  | .crcReset => Sys2Proof.Machine.execCrcReset s
  | .crcBuf => Sys2Proof.Machine.execCrcBuf s
  | .crcBufI => Sys2Proof.Machine.execCrcBufI s
  | .crcStore => Sys2Proof.Machine.execCrcStore s
  | .crcCheck => Sys2Proof.Machine.execCrcCheck s
  | .adlerReset => Sys2Proof.Machine.execAdlerReset s
  | .adlerBuf => Sys2Proof.Machine.execAdlerBuf s
  | .adlerBufI => Sys2Proof.Machine.execAdlerBufI s
  | .adlerStore => Sys2Proof.Machine.execAdlerStore s
  | .adlerCheck => Sys2Proof.Machine.execAdlerCheck s
  | .sigWrite => Sys2Proof.Machine.execSigWrite s
  | .sigCheck => Sys2Proof.Machine.execSigCheck s
  | .chunkBuild => Sys2Proof.Machine.execChunkBuild s
  | .chunkCheck => Sys2Proof.Machine.execChunkCheck s
  | .containerFind => Sys2Proof.Machine.execContainerFind s
  | .chunkFind => Sys2Proof.Machine.execChunkFind s
  | .illegal w => Sys2Proof.Machine.execIllegal w s
  | .rdId => Sys2Proof.Machine.execRdId s
  | .rdCtrl => Sys2Proof.Machine.execRdCtrl s
  | .wrCtrl v => Sys2Proof.Machine.execWrCtrl v s
  | .rdStatus => Sys2Proof.Machine.execRdStatus s
  | .wrStatus v => Sys2Proof.Machine.execWrStatus v s
  | .rdCmd => Sys2Proof.Machine.execRdCmd s
  | .wrCmd v => Sys2Proof.Machine.execWrCmd v s
  | .rdArg0 => Sys2Proof.Machine.execRdArg0 s
  | .rdArg1 => Sys2Proof.Machine.execRdArg1 s
  | .rdArg2 => Sys2Proof.Machine.execRdArg2 s
  | .wrArg0 v => Sys2Proof.Machine.execWrArg0 v s
  | .wrArg1 v => Sys2Proof.Machine.execWrArg1 v s
  | .wrArg2 v => Sys2Proof.Machine.execWrArg2 v s
  | .rdBufSize => Sys2Proof.Machine.execRdBufSize s
  | .rdCrcState => Sys2Proof.Machine.execRdCrcState s
  | .wrCrcState v => Sys2Proof.Machine.execWrCrcState v s
  | .rdCrcValue => Sys2Proof.Machine.execRdCrcValue s
  | .wrCrcValue v => Sys2Proof.Machine.execWrCrcValue v s
  | .wrCrcData8 v => Sys2Proof.Machine.execWrCrcData8 v s
  | .wrCrcData32 v => Sys2Proof.Machine.execWrCrcData32 v s
  | .rdAdlerValue => Sys2Proof.Machine.execRdAdlerValue s
  | .wrAdlerValue v => Sys2Proof.Machine.execWrAdlerValue v s
  | .wrAdlerData8 v => Sys2Proof.Machine.execWrAdlerData8 v s
  | .wrAdlerData32 v => Sys2Proof.Machine.execWrAdlerData32 v s
  | .rdBufAddr => Sys2Proof.Machine.execRdBufAddr s
  | .wrBufAddr v => Sys2Proof.Machine.execWrBufAddr v s
  | .rdBufData8 => Sys2Proof.Machine.execRdBufData8 s
  | .wrBufData8 v => Sys2Proof.Machine.execWrBufData8 v s
  | .rdBufData32 => Sys2Proof.Machine.execRdBufData32 s
  | .wrBufData32 v => Sys2Proof.Machine.execWrBufData32 v s
  | .rdResLen => Sys2Proof.Machine.execRdResLen s
  | .rdResTag => Sys2Proof.Machine.execRdResTag s
  | .rdResData => Sys2Proof.Machine.execRdResData s
  | .rdResNext => Sys2Proof.Machine.execRdResNext s
  | .rdResCrc => Sys2Proof.Machine.execRdResCrc s
  | .rdResCount => Sys2Proof.Machine.execRdResCount s
  | .rdErrInfo => Sys2Proof.Machine.execRdErrInfo s
  | .wrId v => Sys2Proof.Machine.execWrId v s
  | .wrBufSize v => Sys2Proof.Machine.execWrBufSize v s
  | .wrResLen v => Sys2Proof.Machine.execWrResLen v s
  | .wrResTag v => Sys2Proof.Machine.execWrResTag v s
  | .wrResData v => Sys2Proof.Machine.execWrResData v s
  | .wrResNext v => Sys2Proof.Machine.execWrResNext v s
  | .wrResCrc v => Sys2Proof.Machine.execWrResCrc v s
  | .wrResCount v => Sys2Proof.Machine.execWrResCount v s
  | .wrErrInfo v => Sys2Proof.Machine.execWrErrInfo v s
  | .rdCrcData8 => Sys2Proof.Machine.execRdCrcData8 s
  | .rdCrcData32 => Sys2Proof.Machine.execRdCrcData32 s
  | .rdAdlerData8 => Sys2Proof.Machine.execRdAdlerData8 s
  | .rdAdlerData32 => Sys2Proof.Machine.execRdAdlerData32 s
  | .rdRsv034 => Sys2Proof.Machine.execRdRsv034 s
  | .rdRsv04C => Sys2Proof.Machine.execRdRsv04C s
  | .rdRsv06C => Sys2Proof.Machine.execRdRsv06C s
  | .rdRsv070 k => Sys2Proof.Machine.execRdRsv070 k s
  | .rdRsv080 k => Sys2Proof.Machine.execRdRsv080 k s
  | .rdRsv100 k => Sys2Proof.Machine.execRdRsv100 k s
  | .rdRsv200 k => Sys2Proof.Machine.execRdRsv200 k s
  | .rdRsv400 k => Sys2Proof.Machine.execRdRsv400 k s
  | .rdRsv800 k => Sys2Proof.Machine.execRdRsv800 k s
  | .wrRsv034 v => Sys2Proof.Machine.execWrRsv034 v s
  | .wrRsv04C v => Sys2Proof.Machine.execWrRsv04C v s
  | .wrRsv06C v => Sys2Proof.Machine.execWrRsv06C v s
  | .wrRsv070 k v => Sys2Proof.Machine.execWrRsv070 k v s
  | .wrRsv080 k v => Sys2Proof.Machine.execWrRsv080 k v s
  | .wrRsv100 k v => Sys2Proof.Machine.execWrRsv100 k v s
  | .wrRsv200 k v => Sys2Proof.Machine.execWrRsv200 k v s
  | .wrRsv400 k v => Sys2Proof.Machine.execWrRsv400 k v s
  | .wrRsv800 k v => Sys2Proof.Machine.execWrRsv800 k v s

end Sys2Proof.Machine
end

