-- ==== Sys2Proof/Machine/Turn.lean ====
section
/-! DEFINITION. Who moves next, and how an event of the outside is taken up (70_reset_and_hazards.md R308, R309). -/

namespace Sys2Proof.Machine

/-- The host makes no access now: it has none to make, or it waits for IRQ, which is 0. -/
def State.hostIdle (s : State) : Bool :=
  match s.inputs with
  | [] => true
  | .waitIrq :: _ => !s.irq
  | _ => false

/-- The engine's completion step comes now: it is enabled exactly while BUSY = 1 (43_control.md R241), and comes after
`wait` more host accesses, or sooner where the host makes none (70_reset_and_hazards.md R309, log 5). -/
def State.engineTurn (s : State) : Bool := s.status.busy && (s.hostIdle || s.wait == 0)

/-- An access is taken up: the rest of the events stay, and one access fewer comes before completion. -/
def State.accepting (s : State) (rest : List HostEvent) : State :=
  { s with inputs := rest, wait := s.wait - 1 }

/-- POLL goes on while the STATUS it read has BUSY = 1 (30_encoding.md R112). -/
def State.pollAgain (s : State) : State :=
  if s.readData.getLsbD 0 then { s with inputs := .poll :: s.inputs } else s

/-- A command word as if the host had just started it, its completion due now (43_control.md R240, R241). -/
def State.withCommandDue (s : State) (w : Word) : State :=
  { s with curCmd := w, status := s.status.started, wait := 0 }

/-- An access as the next event of the host; one access more fits before a completion, so that it comes first. -/
def State.withAccessNext (s : State) (a : HostAccess) : State :=
  { s with inputs := .access a :: s.inputs, wait := s.wait + 1 }

end Sys2Proof.Machine
end

