-- ==== Sys2Proof/Machine/Step.lean ====
section
/-! DEFINITION. One step: the engine's completion step, or what the outside does next (00_scope.md R6). -/

namespace Sys2Proof.Machine

/-- A decoded host access is performed; one outside the interface is refused (20_memory.md R73). -/
def perform (d : Except PortViolation Instr) (s : State) : Host.Outcome State Fault Refusal :=
  match d with
  | .ok i => exec i s
  | .error why => .refused (.outsideInterface why)

/-- One step of the machine. In the engine's turn the command in CUR_CMD is decoded and completes (43_control.md R241).
Else the next event of `inputs` happens: an access is decoded and performed, or refused where it is outside the
interface (20_memory.md R72, R73). With no event an idle block holds its state (60_exceptions.md R290). -/
def step (s : State) : Host.Outcome State Fault Refusal :=
  if s.engineTurn then exec (decodeCommand s.curCmd) s
  else
    match s.inputs with
    | [] => .next s
    | .access a :: rest => perform (decodeAccess a) (s.accepting rest)
    | .bus b :: rest => perform (decodeBus b) (s.accepting rest)
    | .poll :: rest =>
      match exec .rdStatus (s.accepting rest) with
      | .next t => .next t.pollAgain
      | .fault f => .fault f
      | .refused r => .refused r
    | .waitIrq :: rest => .next (if s.irq then { s with inputs := rest } else s)
    | .powerOn :: rest => .next (powerOnReset { s with inputs := rest })

/-- `s` with the operation of an opcode-table row placed where the next step takes it: a command word as started by the
host and due to complete now, a register key as the next host access (log 6). Another length of row changes nothing. -/
def State.withFetchWord (s : State) (nbits w : Nat) : State :=
  if nbits = 32 then s.withCommandDue (BitVec.ofNat 32 w)
  else if nbits = 16 ∨ nbits = 48 then s.withAccessNext (accessOfBits w)
  else s

end Sys2Proof.Machine
end

