-- ==== Sys2Proof/Machine/HostProgram.lean ====
section
/-! DEFINITION. The notation of host programs and its pseudo-operations (30_encoding.md R112, R113), as lists of events
for `State.inputs`. -/

namespace Sys2Proof.Machine

/-- The event that performs an operation's transaction: a register access as it stands; a command word is written to
CMD (30_encoding.md R100). -/
def eventOf : Transaction → HostEvent
  | .command w => .access (.write .w32 0x00C w)
  | .access a => .access a

/-- `WR <reg>, v` and `RD <reg>` (30_encoding.md R112). -/
def hostOp (i : Instr) : HostEvent := eventOf (encode i)

/-- The same event with the access at its host address (00_scope.md R7): what host software performs. -/
def HostEvent.onBus : HostEvent → HostEvent
  | .access a => .bus a.onBus
  | .bus b => .bus b
  | .poll => .poll
  | .waitIrq => .waitIrq
  | .powerOn => .powerOn

/-- `CMD <mnemonic> [a0 [, a1 [, a2]]]`: the given operands, the command word, POLL (30_encoding.md R113). -/
def cmdOp (i : Instr) (args : List Word) : List HostEvent :=
  List.zipWith (fun wr v => hostOp (wr v)) [Instr.wrArg0, Instr.wrArg1, Instr.wrArg2] args ++ [hostOp i, .poll]

/-- `LDB addr, b0 ... bk` (30_encoding.md R113). -/
def loadBytes (addr : Word) (bs : List Byte) : List HostEvent :=
  hostOp (.wrBufAddr addr) :: bs.map (fun b => hostOp (.wrBufData8 (b.setWidth 32)))

/-- `LDW addr, w0, ..., wk` (30_encoding.md R113). -/
def loadWords (addr : Word) (ws : List Word) : List HostEvent :=
  hostOp (.wrBufAddr addr) :: ws.map (fun w => hostOp (.wrBufData32 w))

/-- `CRCB b0 ... bk` (30_encoding.md R113). -/
def crcBytes (bs : List Byte) : List HostEvent := bs.map (fun b => hostOp (.wrCrcData8 (b.setWidth 32)))

/-- `ADLB b0 ... bk` (30_encoding.md R113). -/
def adlerBytes (bs : List Byte) : List HostEvent := bs.map (fun b => hostOp (.wrAdlerData8 (b.setWidth 32)))

/-- The ASCII bytes of a text, no terminator (30_encoding.md R113). -/
def asciiBytes (text : String) : List Byte := text.toList.map (fun c => BitVec.ofNat 8 c.toNat)

/-- `LDS addr, "text"` (30_encoding.md R113). -/
def loadString (addr : Word) (text : String) : List HostEvent := loadBytes addr (asciiBytes text)

end Sys2Proof.Machine
end

