-- ==== Sys2Proof/Safety.lean ====
section
/-! DEFINITION. The terms that claims use: the invariant of the state, what the buffer holds, records as data, the
access classes of the register operations, and runs. -/

namespace Sys2Proof.Machine

/-! ### The invariant -/

/-- What holds of the block at reset and after every step. -/
structure State.Inv (s : State) : Prop where
  /-- 16 <= BUF_BYTES <= 2^31 (00_scope.md R7) -/
  bufBytes_ge : 16 ≤ s.bufBytes
  bufBytes_le : s.bufBytes ≤ 2 ^ 31
  /-- the memory's canonical form -/
  mem_wf : s.mem.wf = true
  /-- only addresses of the buffer are listed (20_memory.md R70) -/
  mem_inside : ∀ c ∈ s.mem, c.1 < s.bufBytes
  /-- ERRCODE = 0 if and only if ERR = 0 (10_state.md R25) -/
  err_iff : s.status.err = false ↔ s.status.errCode = .noError
  /-- while BUSY = 1, DONE = ERR = FOUND = 0 and ERRCODE = 0 (10_state.md R25) -/
  busy_clear : s.status.busy = true →
    s.status.done = false ∧ s.status.err = false ∧ s.status.found = false ∧ s.status.errCode = .noError
  /-- RES_LEN is a legal length (10_state.md R39) -/
  len_legal : s.res.len.toNat ≤ 0x7FFFFFFF
  /-- RES_COUNT is at most floor(BUF_BYTES / 12) (10_state.md R44) -/
  count_legal : s.res.count.toNat ≤ s.bufBytes / 12

/-! ### What the buffer holds -/

/-- The bytes `bs` were written from `a` on. -/
def Memory.holds (m : Memory) : Nat → List Byte → Bool
  | _, [] => true
  | a, x :: xs => decide (m.lookup a = some x) && Memory.holds m (a + 1) xs

/-- A read from `a` on may return `bs`: every byte that was written has its value, the others any (20_memory.md R90). -/
def Memory.admits (m : Memory) : Nat → List Byte → Bool
  | _, [] => true
  | a, x :: xs => (decide (m.lookup a = some x) || decide (m.lookup a = none)) && Memory.admits m (a + 1) xs

/-- `m'` is `m` with the bytes `bs` stored from `a` on, every other byte as before. -/
def Memory.Stored (m : Memory) (a : Nat) (bs : List Byte) (m' : Memory) : Prop :=
  ∀ x, m'.lookup x = if a ≤ x ∧ x < a + bs.length then bs[x - a]? else m.lookup x

/-! ### Records and containers as data (42_framing.md R190 to R194) -/

/-- A record's tag and data. -/
structure Rec where
  tag : Word
  data : List Byte
  deriving DecidableEq, Repr

/-- The CRC of a record covers its tag and data (42_framing.md R192). -/
def Rec.crc (r : Rec) : Word := crc32 (bytesBE r.tag ++ r.data)

/-- The bytes of a record: length, tag, data, CRC (42_framing.md R190). -/
def Rec.bytes (r : Rec) : List Byte :=
  bytesBE (BitVec.ofNat 32 r.data.length) ++ (bytesBE r.tag ++ (r.data ++ bytesBE r.crc))

/-- The length field holds 0 to 0x7FFFFFFF (42_framing.md R195). -/
def Rec.legal (r : Rec) : Bool := decide (r.data.length ≤ 0x7FFFFFFF)

/-- How many bytes a record takes (42_framing.md R190). -/
def Rec.size (r : Rec) : Nat := 12 + r.data.length

/-- Records packed back to back (42_framing.md R194). -/
def recordBytes (rs : List Rec) : List Byte := rs.flatMap Rec.bytes

/-- How many bytes the records take. -/
def recordSize (rs : List Rec) : Nat := (rs.map Rec.size).sum

/-- The result registers that describe the record at `p`, `count` records having matched (10_state.md R39 to R44). -/
def Rec.results (r : Rec) (p count : Nat) : Results where
  len := BitVec.ofNat 32 r.data.length
  tag := r.tag
  data := BitVec.ofNat 32 (p + 8)
  next := BitVec.ofNat 32 (p + 12 + r.data.length)
  crc := r.crc
  count := BitVec.ofNat 32 count

/-- The result registers after records from `p` on were visited and counted, the last of them described, 0 with no record
(42_framing.md R198, R204). -/
def lastResults (p : Nat) (rs : List Rec) : Results :=
  match rs.getLast? with
  | none => {}
  | some r => r.results (p + recordSize rs.dropLast) rs.length

/-! ### Walks that fail -/

/-- What a walk command checks before its first record: the signature for CONTAINER_FIND, nothing for CHUNK_FIND
(42_framing.md R203, R205). -/
def walkPrefix : Instr → List Byte
  | .containerFind => signature
  | _ => []

/-- The walk command `i`, its region of ARG1 bytes at ARG0 in range, comes to the record address `p` with bytes of the
region left: the region holds the command's prefix and then the legal records `before`, none with the target tag, up to
`p` (42_framing.md R197). -/
structure State.WalkReaches (s : State) (i : Instr) (before : List Rec) (p : Nat) : Prop where
  walks : i = .chunkFind ∨ i = .containerFind
  misses : ∀ q ∈ before, q.legal = true ∧ q.tag ≠ s.arg2
  inside : s.arg0.toNat + s.arg1.toNat ≤ s.bufBytes
  held : s.mem.holds s.arg0.toNat (walkPrefix i ++ recordBytes before) = true
  at_eq : p = s.arg0.toNat + (walkPrefix i).length + recordSize before
  left : p < s.arg0.toNat + s.arg1.toNat

/-! ### Records as a check reads them, written or not -/

/-- What one check of a record reads, in its order (42_framing.md R196): the length field, the tag that it reports, tag and
data as the CRC takes them, and the CRC field. It reads the tag twice, and where the tag was never written the two reads
need not agree (20_memory.md R90). -/
structure RecordRead where
  len : Word
  tag : Word
  body : List Byte
  stored : Word
  deriving DecidableEq, Repr

/-- A check at `p` may read so: each byte as it was written, or any where none was (20_memory.md R90). -/
def RecordRead.Admitted (q : RecordRead) (m : Memory) (p : Nat) : Prop :=
  m.admits p (bytesBE q.len) = true ∧ m.admits (p + 4) (bytesBE q.tag) = true
    ∧ q.body.length = 4 + q.len.toNat ∧ m.admits (p + 4) q.body = true
    ∧ m.admits (p + 8 + q.len.toNat) (bytesBE q.stored) = true

/-- How many bytes the record takes (42_framing.md R190). -/
def RecordRead.size (q : RecordRead) : Nat := 12 + q.len.toNat

/-- The record passes its check at `p` in a region that ends before `stop` (42_framing.md R196): a legal length, room for
the whole record, and the right CRC. -/
def RecordRead.Passes (q : RecordRead) (p stop : Nat) : Prop :=
  q.len.toNat ≤ 0x7FFFFFFF ∧ p + q.size ≤ stop ∧ crc32 q.body = q.stored

/-- The result registers that describe it, `count` records having matched (42_framing.md R196). -/
def RecordRead.results (q : RecordRead) (p count : Nat) : Results where
  len := q.len
  tag := q.tag
  data := BitVec.ofNat 32 (p + 8)
  next := BitVec.ofNat 32 (p + q.size)
  crc := crc32 q.body
  count := BitVec.ofNat 32 count

/-- A walk from `p` passes the records read as `qs`, none with the target tag, and comes to `p'` (42_framing.md R197). -/
def PassesAll (m : Memory) (target : Word) (stop : Nat) : Nat → List RecordRead → Nat → Prop
  | p, [], p' => p' = p
  | p, q :: qs, p' =>
    q.Admitted m p ∧ q.Passes p stop ∧ q.tag ≠ target ∧ PassesAll m target stop (p + q.size) qs p'

/-- The result registers after a walk from `p` passed `qs`: the last of them described, all counted, 0 with none
(42_framing.md R198, R204). -/
def passedResults (p : Nat) (qs : List RecordRead) : Results :=
  match qs.getLast? with
  | none => {}
  | some q => q.results (p + (qs.dropLast.map RecordRead.size).sum) qs.length

/-! ### STATUS after a command (43_control.md R241, 60_exceptions.md R277) -/

/-- After success: BUSY 0, DONE 1. -/
def Status.succeeded (t : Status) : Status := { t with busy := false, done := true }

/-- After an error: BUSY 0, DONE 1, ERR 1 and its code. -/
def Status.failed (t : Status) (e : ErrorCode) : Status :=
  { t with busy := false, done := true, err := true, errCode := e }

/-! ### Classes of operations -/

/-- The commands: what a CMD write starts (30_encoding.md R100). -/
def isCommand (i : Instr) : Bool :=
  match encode i with
  | .command _ => true
  | .access _ => false

/-- The reads among the register operations. -/
def isRead (i : Instr) : Bool :=
  match encode i with
  | .access (.read _ _) => true
  | _ => false

/-- The byte offset of a register operation. -/
def offsetOf (i : Instr) : Option Nat :=
  match encode i with
  | .access (.read _ off) => some off
  | .access (.write _ off _) => some off
  | .command _ => none

/-- The mapped offsets whose accesses are rejected while BUSY = 1: all but ID, CTRL, STATUS and BUF_SIZE
(43_control.md R262, 10_state.md R21). -/
def busyOffsets : List Nat :=
  [0x00C, 0x010, 0x014, 0x018, 0x020, 0x024, 0x028, 0x02C, 0x030, 0x038, 0x03C, 0x040, 0x044, 0x048,
   0x050, 0x054, 0x058, 0x05C, 0x060, 0x064, 0x068]

/-- The register operations that are rejected while BUSY = 1 (43_control.md R262). -/
def isRejectedBusy (i : Instr) : Bool := (offsetOf i).any busyOffsets.contains

/-- The commands that set the result registers: opcodes 0x12 to 0x15 (10_state.md section 6). -/
def isFrame : Instr → Bool
  | .chunkBuild | .chunkCheck | .containerFind | .chunkFind => true
  | _ => false

/-! ### Runs -/

/-- Operations performed one after the other, until one stops. -/
def execAll : List Instr → State → Host.Outcome State Fault Refusal
  | [], s => .next s
  | i :: is, s =>
    match exec i s with
    | .next t => execAll is t
    | .fault f => .fault f
    | .refused r => .refused r

/-- One part of a byte sequence, and how the host feeds it to an accumulator (40_crc.md R147, 41_rolling.md R175). -/
inductive Feed where
  /-- buffer bytes `d` at `a`, by the BUF command with INIT = 0 -/
  | buf (a : Word) (d : List Byte)
  /-- the low byte of `v`, by the 8-bit data port -/
  | data8 (v : Word)
  /-- the four bytes of `v`, by the 32-bit data port -/
  | data32 (v : Word)
  deriving DecidableEq, Repr

/-- The bytes that a part feeds, in order. -/
def Feed.bytes : Feed → List Byte
  | .buf _ d => d
  | .data8 v => [v.extractLsb' 0 8]
  | .data32 v => [v.extractLsb' 0 8, v.extractLsb' 8 8, v.extractLsb' 16 8, v.extractLsb' 24 8]

/-- A part of the buffer is in range and was written with its bytes. -/
def Feed.ready (s : State) : Feed → Bool
  | .buf a d => decide (a.toNat + d.length ≤ s.bufBytes) && s.mem.holds a.toNat d
  | .data8 _ => true
  | .data32 _ => true

/-- The operations that feed a part to the CRC engine: operands, command start and completion, or one port write. -/
def Feed.toCrc : Feed → List Instr
  | .buf a d => [.wrArg0 a, .wrArg1 (BitVec.ofNat 32 d.length), .wrCmd 0x00000002#32, .crcBuf]
  | .data8 v => [.wrCrcData8 v]
  | .data32 v => [.wrCrcData32 v]

/-- The operations that feed a part to the rolling checksum. -/
def Feed.toAdler : Feed → List Instr
  | .buf a d => [.wrArg0 a, .wrArg1 (BitVec.ofNat 32 d.length), .wrCmd 0x00000009#32, .adlerBuf]
  | .data8 v => [.wrAdlerData8 v]
  | .data32 v => [.wrAdlerData32 v]

end Sys2Proof.Machine
end

