-- ==== Sys2Proof/Certificates/Slice0/Obligations.lean ====
section
/-! DEFINITION. The statements for the provers. Each is about every state unless it says otherwise; a statement about
the buffer speaks of what was written (`Memory.lookup`) or of what a read may return (`Memory.admits`). `exec` of a
command is its completion step and does not test BUSY, as `step` does (log 13). -/

open Sys2Proof Sys2Proof.Machine

/-! ### Encoding -/

/-- Decoding what the encoder writes gives the instruction back, for every well-formed instruction
(30_encoding.md R106, R110, R111; 10_state.md R21). -/
def Obligations.DecodeOfEncode : Prop :=
  ∀ i : Instr, i.wf = true → decode (encode i) = .ok i

/-- A transaction that decodes is the encoding of what it decodes to, and of that alone: no bit of it is dropped; and
what it decodes to is well formed. -/
def Obligations.EncodeOfDecode : Prop :=
  ∀ (t : Transaction) (i : Instr), decode t = .ok i → encode i = t ∧ i.wf = true

/-- The illegal command words (30_encoding.md R107, R108, R109): an OP outside the map, INIT with an OP that is neither
CRC_BUF nor ADLER_BUF, or a bit of 31:9 set. Executing one completes with BAD_COMMAND and the word in ERR_INFO, and
nothing else changes. Every other word is one of the 17 of the map and decodes to no illegal command. -/
def Obligations.IllegalWordsComplete : Prop :=
  ∀ (s : State) (w : Word),
    let listed := w.toNat % 2 ^ 8 ∈
      [0x00, 0x01, 0x02, 0x03, 0x04, 0x08, 0x09, 0x0A, 0x0B, 0x10, 0x11, 0x12, 0x13, 0x14, 0x15]
    let initBad := w.toNat / 2 ^ 8 % 2 = 1 ∧ w.toNat % 2 ^ 8 ≠ 0x02 ∧ w.toNat % 2 ^ 8 ≠ 0x09
    (¬ listed ∨ initBad ∨ w.toNat / 2 ^ 9 ≠ 0 →
      decodeCommand w = .illegal w
      ∧ exec (.illegal w) s = .next { s with status := s.status.failed .badCommand, errInfo := w })
    ∧ (listed ∧ ¬ initBad ∧ w.toNat / 2 ^ 9 = 0 → w ∈ commandWords ∧ ∀ v, decodeCommand w ≠ .illegal v)

/-- Words written out from the spec's encoding decode to the instruction they stand for (30_encoding.md R106, R111). That
`decodeTableWord` takes 32 bits for a command word and 16 for a key, and 0 for the value that a key alone does not write,
is the model's (log 11). -/
def Obligations.SpecWordsDecode : Prop :=
  decodeTableWord 32 0b00000000000000000000000100000010 = some .crcBufI
  ∧ decodeTableWord 32 0b00000000000000000000000000001010 = some .adlerStore
  ∧ decodeTableWord 32 0b00000000000000000000000000010100 = some .containerFind
  ∧ decodeTableWord 16 0b1000000101100 = some (.wrCrcData32 0)
  ∧ decodeTableWord 16 0b0000001100100 = some .rdResCount
  ∧ decodeTableWord 16 0b1000100000100 = some (.wrRsv100 1 0)

/-- Host accesses outside the interface (20_memory.md R72, R73): of 8 or 16 bits, at an offset that is no multiple of 4, or
at 0x1000 or more. The step that meets one refuses it, and refuses no other. The same by host address, with the frame at
REG_BASE, a multiple of 4096 (00_scope.md R7); that an address below it is refused too is the model's (log 2). The list
`inputs` that hands the step its access, and the turn, are the model's (log 5, log 6). -/
def Obligations.OutsideAccessesRefused : Prop :=
  (∀ (s : State) (width : AccessWidth) (off : Nat) (v : Word) (a : HostAccess) (rest : List HostEvent),
    a = .read width off ∨ a = .write width off v → s.engineTurn = false → s.inputs = .access a :: rest →
    ((∃ why, step s = .refused why) ↔ (width = .w8 ∨ width = .w16 ∨ off % 4 ≠ 0 ∨ 0x1000 ≤ off)))
  ∧ Config.regBase % 4096 = 0
  ∧ (∀ (s : State) (width : AccessWidth) (addr : Nat) (v : Word) (b : BusAccess) (rest : List HostEvent),
    b = .read width addr ∨ b = .write width addr v → s.engineTurn = false → s.inputs = .bus b :: rest →
    ((∃ why, step s = .refused why) ↔
      (width = .w8 ∨ width = .w16 ∨ addr % 4 ≠ 0 ∨ addr < Config.regBase ∨ Config.regBase + 0x1000 ≤ addr)))

/-! ### Steps -/

/-- A step runs the decoded instruction. In the engine's turn it is the command in CUR_CMD (43_control.md R241); in the
host's turn an access of the frame is the instruction it encodes, run with that event taken off `inputs` and one access
fewer to come before a completion. An access by host address, REG_BASE plus an offset, is the access at that offset
(00_scope.md R7, 10_state.md R21). A host that waits for IRQ goes on exactly when IRQ is 1 (70_reset_and_hazards.md
R308). The turns and the list `inputs` are the model's (log 5, log 6, log 14). -/
def Obligations.StepRunsDecodedInstruction : Prop :=
  (∀ (s : State) (i : Instr), s.engineTurn = true → decode (.command s.curCmd) = .ok i → step s = exec i s)
  ∧ (∀ (s : State) (a : HostAccess) (rest : List HostEvent) (i : Instr),
      s.engineTurn = false → s.inputs = .access a :: rest → decode (.access a) = .ok i →
      step s = exec i { s with inputs := rest, wait := s.wait - 1 })
  ∧ (∀ (s : State) (off : Nat) (rest : List HostEvent) (i : Instr),
      s.engineTurn = false → s.inputs = .bus (.read .w32 (Config.regBase + off)) :: rest →
      decode (.access (.read .w32 off)) = .ok i → step s = exec i { s with inputs := rest, wait := s.wait - 1 })
  ∧ (∀ (s : State) (off : Nat) (v : Word) (rest : List HostEvent) (i : Instr),
      s.engineTurn = false → s.inputs = .bus (.write .w32 (Config.regBase + off) v) :: rest →
      decode (.access (.write .w32 off v)) = .ok i → step s = exec i { s with inputs := rest, wait := s.wait - 1 })
  ∧ (∀ (s : State) (rest : List HostEvent), s.engineTurn = false → s.inputs = .waitIrq :: rest →
      step s = .next (if s.irq = true then { s with inputs := rest } else s))

/-- A POLL ends (70_reset_and_hazards.md R309): from a busy state whose host polls, after `wait + 2` steps the command
has completed, once, its effects are those of its instruction, the poll is over and the host has read STATUS. The
number `wait` of accesses and the event POLL are the model's (log 5, log 14). -/
def Obligations.PollEndsAfterCompletion : Prop :=
  ∀ (s : State) (rest : List HostEvent), s.status.busy = true → s.inputs = .poll :: rest →
    ∃ (r : Word) (u : State),
      exec (decodeCommand s.curCmd) { s with wait := 0, readData := r } = .next u
      ∧ u.status.busy = false ∧ u.status.done = true
      ∧ core.run (s.wait + 2) s = .next { u with inputs := rest, readData := u.status.word }

/-- No step faults, and none refuses but for an access outside the interface, by offset or by host address (00_scope.md
R12, 20_memory.md R73). -/
def Obligations.StepAnswersInsideInterface : Prop :=
  ∀ s : State, (∀ a rest, s.inputs = .access a :: rest → ∃ i, decode (.access a) = .ok i) →
    (∀ b rest, s.inputs = .bus b :: rest → ∃ i, decodeBus b = .ok i) → ∃ t, step s = .next t

/-! ### The invariant -/

/-- The reset state meets the invariant. Its BUF_BYTES, 65536, is the model's choice (log 1). -/
def Obligations.ResetMeetsInvariant : Prop := State.reset.Inv

/-- Every step keeps the invariant, from every state that meets it. -/
def Obligations.StepKeepsInvariant : Prop :=
  ∀ s t : State, s.Inv → step s = .next t → t.Inv

/-- No step changes BUF_SIZE (10_state.md R31). -/
def Obligations.StepKeepsBufSize : Prop :=
  ∀ s t : State, step s = .next t → t.bufSize = s.bufSize

/-! ### The CRC engine -/

/-- The table the engine uses is the one the spec lists (40_crc.md R132). -/
def Obligations.CrcTableIsTheListing : Prop :=
  crcListing.length = 256 ∧ ∀ n : Byte, crcListing[n.toNat]? = some (crcTable n)

/-- Table-driven and bitwise CRC agree: one byte by the table is eight single-bit steps of the state with the byte
exclusive-ored into its low bits (40_crc.md R131, R134). -/
def Obligations.CrcByteIsEightBitSteps : Prop :=
  ∀ (s : Word) (x : Byte), crcByte s x = Nat.repeat crcShift 8 (s ^^^ x.setWidth 32)

/-- Chunk-size independence (40_crc.md R147): any mix of CRC_BUF commands, CRC_DATA8 and CRC_DATA32 writes, each part of
the buffer in range and written with its bytes, completes and leaves in CRC_STATE the update by all bytes in order. The
buffer, ADLER_VALUE and the result registers are as before. -/
def Obligations.CrcFeedsInAnyChunking : Prop :=
  ∀ (s : State) (parts : List Feed), s.status.busy = false → (∀ f ∈ parts, f.ready s = true) →
    ∃ t, execAll (parts.flatMap Feed.toCrc) s = .next t
      ∧ t.crcState = crcUpdate s.crcState (parts.flatMap Feed.bytes)
      ∧ t.mem = s.mem ∧ t.adlerValue = s.adlerValue ∧ t.res = s.res ∧ t.status.busy = false

/-- CRC_RESET completes from any state: CRC_STATE is 0xFFFFFFFF (40_crc.md R137), the command ends, nothing else
changes. NOP changes nothing else (43_control.md R243). ADLER_RESET loads ADLER_INIT (41_rolling.md R165), 0x00000001,
which the spec takes from general knowledge (R164, log 12). -/
def Obligations.ResetsAndNopComplete : Prop :=
  ∀ s : State,
    exec .nop s = .next { s with status := s.status.succeeded }
    ∧ exec .crcReset s = .next { s with crcState := 0xFFFFFFFF#32, status := s.status.succeeded }
    ∧ exec .adlerReset s = .next { s with adlerValue := 0x00000001#32, status := s.status.succeeded }

/-- CRC_BUF and CRC_BUF.I in range complete (40_crc.md R138): CRC_STATE is the update, from its old value or from
0xFFFFFFFF, by ARG1 bytes from ARG0 on, each of them the byte written there, or any byte where none was. Nothing else
changes. -/
def Obligations.CrcBufCompletes : Prop :=
  ∀ s : State, s.arg0.toNat + s.arg1.toNat ≤ s.bufBytes →
    ∃ d n, d.length = s.arg1.toNat ∧ s.mem.admits s.arg0.toNat d = true
      ∧ exec .crcBuf s = .next { s with
          crcState := crcUpdate s.crcState d, status := s.status.succeeded, draws := n }
      ∧ exec .crcBufI s = .next { s with
          crcState := crcUpdate 0xFFFFFFFF#32 d, status := s.status.succeeded, draws := n }

/-- CRC_STORE and ADLER_STORE in range complete (40_crc.md R139, 41_rolling.md R167): the four bytes from ARG0 on are
the exposed CRC, or ADLER_VALUE, most significant byte first; every other byte and every register is as before. -/
def Obligations.TrailerStoresComplete : Prop :=
  ∀ s : State, s.argAddr + 4 ≤ s.bufBytes →
    (∃ m, exec .crcStore s = .next { s with mem := m, status := s.status.succeeded }
      ∧ s.mem.Stored s.argAddr
          [(~~~s.crcState).extractLsb' 24 8, (~~~s.crcState).extractLsb' 16 8, (~~~s.crcState).extractLsb' 8 8,
           (~~~s.crcState).extractLsb' 0 8] m)
    ∧ (∃ m, exec .adlerStore s = .next { s with mem := m, status := s.status.succeeded }
      ∧ s.mem.Stored s.argAddr
          [s.adlerValue.extractLsb' 24 8, s.adlerValue.extractLsb' 16 8, s.adlerValue.extractLsb' 8 8,
           s.adlerValue.extractLsb' 0 8] m)

/-- CRC_CHECK and ADLER_CHECK in range (40_crc.md R140, 41_rolling.md R168): they read four bytes at ARG0, each the one
written there or any where none was (20_memory.md R90), succeed where these, most significant first, are the exposed CRC,
or ADLER_VALUE, and else fail with INVALID_CHECKSUM and ARG0; nothing else changes either way. -/
def Obligations.TrailerChecksComplete : Prop :=
  ∀ s : State, s.arg0.toNat + 4 ≤ s.bufBytes →
    ∃ (b3 b2 b1 b0 : Byte) (n : Nat), s.mem.admits s.arg0.toNat [b3, b2, b1, b0] = true
      ∧ (b3 ++ b2 ++ b1 ++ b0 = ~~~s.crcState →
        exec .crcCheck s = .next { s with status := s.status.succeeded, draws := n })
      ∧ (b3 ++ b2 ++ b1 ++ b0 ≠ ~~~s.crcState →
        exec .crcCheck s = .next { s with
          status := s.status.failed .invalidChecksum, errInfo := s.arg0, draws := n })
      ∧ (b3 ++ b2 ++ b1 ++ b0 = s.adlerValue →
        exec .adlerCheck s = .next { s with status := s.status.succeeded, draws := n })
      ∧ (b3 ++ b2 ++ b1 ++ b0 ≠ s.adlerValue →
        exec .adlerCheck s = .next { s with
          status := s.status.failed .invalidChecksum, errInfo := s.arg0, draws := n })

/-- A stored trailer passes its check: CRC_STORE then CRC_CHECK, and ADLER_STORE then ADLER_CHECK, at the same ARG0 in
range, both succeed, whatever the buffer held (40_crc.md R139, R140; 41_rolling.md R167, R168). The check is run as its
completion alone, at BUSY 0, without the CMD write that starts it: `exec` does not test BUSY (log 13). -/
def Obligations.StoredTrailersCheck : Prop :=
  ∀ s : State, s.arg0.toNat + 4 ≤ s.bufBytes →
    (∃ t, execAll [.crcStore, .crcCheck] s = .next t ∧ t.status = s.status.succeeded ∧ t.errInfo = s.errInfo)
    ∧ (∃ t, execAll [.adlerStore, .adlerCheck] s = .next t ∧ t.status = s.status.succeeded ∧ t.errInfo = s.errInfo)

/-! ### The rolling checksum -/

/-- The per-byte recurrence (41_rolling.md R161, R162): the new low half is the old low plus the byte, the new high half
the old high plus the new low, each modulo 65521. -/
def Obligations.AdlerByteFollowsRecurrence : Prop :=
  ∀ (v : Word) (x : Byte),
    (adlerByte v x).toNat % 65536 = (v.toNat % 65536 + x.toNat) % 65521
    ∧ (adlerByte v x).toNat / 65536
        = (v.toNat / 65536 + (v.toNat % 65536 + x.toNat) % 65521) % 65521

/-- Unreduced seeds (41_rolling.md R174): a value written to ADLER_VALUE while idle is held as written, whatever its
halves; feeding no byte leaves it; after one byte or more both halves are below 65521. The two examples of the rule. -/
def Obligations.AdlerSeedsUnreducedUntilFed : Prop :=
  (∀ (s : State) (v : Word), s.status.busy = false → exec (.wrAdlerValue v) s = .next { s with adlerValue := v })
  ∧ (∀ v, adlerUpdate v [] = v)
  ∧ (∀ (v : Word) (d : List Byte), d ≠ [] →
      (adlerUpdate v d).toNat % 65536 < 65521 ∧ (adlerUpdate v d).toNat / 65536 < 65521)
  ∧ adlerUpdate 0xFFFFFFFF#32 [0x00#8] = 0x001C000E#32
  ∧ adlerUpdate 0xFFF0FFF0#32 [0x10#8] = 0x000E000F#32

/-- Chunk-size independence of the rolling checksum (41_rolling.md R175), as for the CRC. -/
def Obligations.AdlerFeedsInAnyChunking : Prop :=
  ∀ (s : State) (parts : List Feed), s.status.busy = false → (∀ f ∈ parts, f.ready s = true) →
    ∃ t, execAll (parts.flatMap Feed.toAdler) s = .next t
      ∧ t.adlerValue = adlerUpdate s.adlerValue (parts.flatMap Feed.bytes)
      ∧ t.mem = s.mem ∧ t.crcState = s.crcState ∧ t.res = s.res ∧ t.status.busy = false

/-- ADLER_BUF and ADLER_BUF.I in range complete (41_rolling.md R166), as CRC_BUF; ADLER_BUF.I starts from ADLER_INIT,
0x00000001, which the spec takes from general knowledge (R164, log 12). -/
def Obligations.AdlerBufCompletes : Prop :=
  ∀ s : State, s.arg0.toNat + s.arg1.toNat ≤ s.bufBytes →
    ∃ d n, d.length = s.arg1.toNat ∧ s.mem.admits s.arg0.toNat d = true
      ∧ exec .adlerBuf s = .next { s with
          adlerValue := adlerUpdate s.adlerValue d, status := s.status.succeeded, draws := n }
      ∧ exec .adlerBufI s = .next { s with
          adlerValue := adlerUpdate 0x00000001#32 d, status := s.status.succeeded, draws := n }

/-! ### Framing -/

/-- SIG_WRITE in range completes (42_framing.md R199): the eight bytes from ARG0 on are the signature (R193), every other
byte and register is as before. -/
def Obligations.SigWriteCompletes : Prop :=
  ∀ s : State, s.argAddr + 8 ≤ s.bufBytes →
    ∃ m, exec .sigWrite s = .next { s with mem := m, status := s.status.succeeded }
      ∧ s.mem.Stored s.argAddr [0x89#8, 0x50#8, 0x4E#8, 0x47#8, 0x0D#8, 0x0A#8, 0x1A#8, 0x0A#8] m

/-- SIG_CHECK in range (42_framing.md R200): it reads eight bytes at ARG0, each the one written there or any where none was
(20_memory.md R90), succeeds where they are the signature and fails with INVALID_SIGNATURE and ARG0 where they are not;
nothing else changes. -/
def Obligations.SigCheckCompletes : Prop :=
  ∀ s : State, s.arg0.toNat + 8 ≤ s.bufBytes →
    ∃ (bs : List Byte) (n : Nat), bs.length = 8 ∧ s.mem.admits s.arg0.toNat bs = true
      ∧ (bs = [0x89#8, 0x50#8, 0x4E#8, 0x47#8, 0x0D#8, 0x0A#8, 0x1A#8, 0x0A#8] →
        exec .sigCheck s = .next { s with status := s.status.succeeded, draws := n })
      ∧ (bs ≠ [0x89#8, 0x50#8, 0x4E#8, 0x47#8, 0x0D#8, 0x0A#8, 0x1A#8, 0x0A#8] →
        exec .sigCheck s = .next { s with
          status := s.status.failed .invalidSignature, errInfo := s.arg0, draws := n })

/-- CHUNK_BUILD (42_framing.md R201, R190, R192), ARG1 bytes of data at ARG0 + 8, all in range. Over written data it
completes; the buffer then holds the record with tag ARG2 and that data, length and CRC big-endian, at ARG0, every byte
outside the record as before; the result registers describe it, RES_COUNT 1; nothing else changes. Over any data, each
byte read being the one written there or any where none was (20_memory.md R90): the same CRC and results, and what is
stored are the eight bytes of the header and the four of the CRC alone; the data bytes are not written. -/
def Obligations.ChunkBuildFramesRecord : Prop :=
  (∀ (s : State) (data : List Byte), s.arg1.toNat = data.length → data.length ≤ 0x7FFFFFFF →
    s.argAddr + 12 + data.length ≤ s.bufBytes → s.mem.holds (s.argAddr + 8) data = true →
    ∃ m n, exec .chunkBuild s = .next { s with
        mem := m, res := (Rec.mk s.arg2 data).results s.argAddr 1, status := s.status.succeeded, draws := n }
      ∧ s.mem.Stored s.argAddr (Rec.mk s.arg2 data).bytes m)
  ∧ (∀ s : State, s.arg1.toNat ≤ 0x7FFFFFFF → s.argAddr + 12 + s.arg1.toNat ≤ s.bufBytes →
    ∃ data h m n, data.length = s.arg1.toNat ∧ s.mem.admits (s.argAddr + 8) data = true
      ∧ exec .chunkBuild s = .next { s with
        mem := m, res := (Rec.mk s.arg2 data).results s.argAddr 1, status := s.status.succeeded, draws := n }
      ∧ s.mem.Stored s.argAddr (bytesBE s.arg1 ++ bytesBE s.arg2) h
      ∧ h.Stored (s.argAddr + 8 + s.arg1.toNat) (bytesBE (Rec.mk s.arg2 data).crc) m)

/-- CHUNK_CHECK with its operand in range (42_framing.md R202, R196). It accepts a record held at ARG0 that fits the ARG1
bytes available: the result registers describe it and RES_COUNT is 1. Over any bytes, with room for a header, it goes by
what it reads, each byte the one written there or any where none was (20_memory.md R90): BAD_LENGTH for a length above
0x7FFFFFFF, else TRUNCATED for one that does not fit, else INVALID_CHECKSUM for a CRC field that is not the CRC of the
tag and data read, else success. Nothing else changes. -/
def Obligations.ChunkCheckAcceptsRecord : Prop :=
  (∀ (s : State) (r : Rec), r.legal = true → r.size ≤ s.arg1.toNat → s.arg0.toNat + s.arg1.toNat ≤ s.bufBytes →
    s.mem.holds s.arg0.toNat r.bytes = true →
    ∃ n, exec .chunkCheck s = .next { s with
      res := r.results s.arg0.toNat 1, status := s.status.succeeded, draws := n })
  ∧ (∀ s : State, s.arg0.toNat + s.arg1.toNat ≤ s.bufBytes → 12 ≤ s.arg1.toNat →
    let failing := fun e r => ∃ n, exec .chunkCheck s = .next { s with
      res := r, status := s.status.failed e, errInfo := s.arg0, draws := n }
    ∃ q : RecordRead, q.Admitted s.mem s.arg0.toNat
      ∧ (0x7FFFFFFF < q.len.toNat → failing .badLength {})
      ∧ (q.len.toNat ≤ 0x7FFFFFFF → s.arg1.toNat < q.size → failing .truncated {})
      ∧ (q.len.toNat ≤ 0x7FFFFFFF → q.size ≤ s.arg1.toNat → crc32 q.body ≠ q.stored →
        failing .invalidChecksum (q.results s.arg0.toNat 0))
      ∧ (q.len.toNat ≤ 0x7FFFFFFF → q.size ≤ s.arg1.toNat → crc32 q.body = q.stored →
        ∃ n, exec .chunkCheck s = .next { s with
          res := q.results s.arg0.toNat 1, status := s.status.succeeded, draws := n }))

/-- What is built checks (42_framing.md R201, R202): after CHUNK_BUILD over written data, CHUNK_CHECK with just the
record's length available succeeds, and leaves the result registers as the build left them. The check is run as its
completion alone, at BUSY 0, without the CMD write that starts it: `exec` does not test BUSY (log 13). -/
def Obligations.BuiltRecordChecks : Prop :=
  ∀ (s : State) (data : List Byte), s.arg1.toNat = data.length → data.length ≤ 0x7FFFFFFF →
    s.argAddr + 12 + data.length ≤ s.bufBytes → s.mem.holds (s.argAddr + 8) data = true →
    ∃ t, execAll [.chunkBuild, .wrArg1 (BitVec.ofNat 32 (12 + data.length)), .chunkCheck] s = .next t
      ∧ t.status = s.status.succeeded ∧ t.res = (Rec.mk s.arg2 data).results s.argAddr 1

/-- The errors of a record's header, in their order (42_framing.md R196, R202; 60_exceptions.md R273, R274, R279): TRUNCATED
with fewer than 12 bytes left; else BAD_LENGTH for a written length field above 0x7FFFFFFF; else TRUNCATED for one that
does not fit. CHUNK_CHECK with its operand in range raises them with its result registers 0 and ARG0; CHUNK_FIND and
CONTAINER_FIND with the address `p` of the record, behind any records that passed, which the result registers still
describe and count (R197, R198). Nothing else changes. -/
def Obligations.ChunkCheckHeaderErrors : Prop :=
  (∀ (s : State) (b3 b2 b1 b0 : Byte), s.arg0.toNat + s.arg1.toNat ≤ s.bufBytes →
    (s.arg1.toNat < 12 → exec .chunkCheck s = .next { s with
      res := {}, status := s.status.failed .truncated, errInfo := s.arg0 })
    ∧ (12 ≤ s.arg1.toNat → s.mem.holds s.arg0.toNat [b3, b2, b1, b0] = true →
      0x7FFFFFFF < (b3 ++ b2 ++ b1 ++ b0).toNat →
      ∃ n, exec .chunkCheck s = .next { s with
        res := {}, status := s.status.failed .badLength, errInfo := s.arg0, draws := n })
    ∧ (12 ≤ s.arg1.toNat → s.mem.holds s.arg0.toNat [b3, b2, b1, b0] = true →
      (b3 ++ b2 ++ b1 ++ b0).toNat ≤ 0x7FFFFFFF → s.arg1.toNat < 12 + (b3 ++ b2 ++ b1 ++ b0).toNat →
      ∃ n, exec .chunkCheck s = .next { s with
        res := {}, status := s.status.failed .truncated, errInfo := s.arg0, draws := n }))
  ∧ (∀ (s : State) (i : Instr) (before : List Rec) (p : Nat) (b3 b2 b1 b0 : Byte), s.WalkReaches i before p →
    let failing := fun e => ∃ n, exec i s = .next { s with
      res := lastResults (s.arg0.toNat + (walkPrefix i).length) before
      status := s.status.failed e, errInfo := BitVec.ofNat 32 p, draws := n }
    (s.arg0.toNat + s.arg1.toNat < p + 12 → failing .truncated)
    ∧ (p + 12 ≤ s.arg0.toNat + s.arg1.toNat → s.mem.holds p [b3, b2, b1, b0] = true →
      0x7FFFFFFF < (b3 ++ b2 ++ b1 ++ b0).toNat → failing .badLength)
    ∧ (p + 12 ≤ s.arg0.toNat + s.arg1.toNat → s.mem.holds p [b3, b2, b1, b0] = true →
      (b3 ++ b2 ++ b1 ++ b0).toNat ≤ 0x7FFFFFFF →
      s.arg0.toNat + s.arg1.toNat < p + 12 + (b3 ++ b2 ++ b1 ++ b0).toNat → failing .truncated))

/-- A record whose CRC field is not the CRC of its tag and data fails with INVALID_CHECKSUM and the record's address
(42_framing.md R196, R198, R213; 60_exceptions.md R272, R279). CHUNK_CHECK: the first five result registers describe it,
with the recomputed CRC, and RES_COUNT is 0. CHUNK_FIND and CONTAINER_FIND, at a record behind any that passed, even where
it has the target tag: the same, and RES_COUNT counts those before it (R197). Nothing else changes. -/
def Obligations.ChunkCheckRejectsBadCrc : Prop :=
  (∀ (s : State) (r : Rec) (c : Word), r.legal = true → r.size ≤ s.arg1.toNat →
    s.arg0.toNat + s.arg1.toNat ≤ s.bufBytes → c ≠ r.crc →
    s.mem.holds s.arg0.toNat
      (bytesBE (BitVec.ofNat 32 r.data.length) ++ (bytesBE r.tag ++ (r.data ++ bytesBE c))) = true →
    ∃ n, exec .chunkCheck s = .next { s with
      res := r.results s.arg0.toNat 0, status := s.status.failed .invalidChecksum, errInfo := s.arg0, draws := n })
  ∧ (∀ (s : State) (i : Instr) (before : List Rec) (p : Nat) (r : Rec) (c : Word), s.WalkReaches i before p →
    r.legal = true → p + r.size ≤ s.arg0.toNat + s.arg1.toNat → c ≠ r.crc →
    s.mem.holds p
      (bytesBE (BitVec.ofNat 32 r.data.length) ++ (bytesBE r.tag ++ (r.data ++ bytesBE c))) = true →
    ∃ n, exec i s = .next { s with
      res := r.results p before.length, status := s.status.failed .invalidChecksum
      errInfo := BitVec.ofNat 32 p, draws := n })

/-- CONTAINER_FIND finds the first match (42_framing.md R203, R197, R207): where the region of ARG1 bytes at ARG0 begins
with the signature, records without the target tag, and then a record with it, all held and legal, it completes with
FOUND, the result registers describing that record and RES_COUNT counting it and those before it, whatever the rest of
the region holds. Nothing else changes. -/
def Obligations.ContainerFindFindsFirstMatch : Prop :=
  ∀ (s : State) (before : List Rec) (r : Rec),
    (∀ q ∈ before, q.legal = true ∧ q.tag ≠ s.arg2) → r.legal = true → r.tag = s.arg2 →
    s.arg0.toNat + s.arg1.toNat ≤ s.bufBytes → 8 + recordSize (before ++ [r]) ≤ s.arg1.toNat →
    s.mem.holds s.arg0.toNat (signature ++ recordBytes (before ++ [r])) = true →
    ∃ n, exec .containerFind s = .next { s with
      res := r.results (s.arg0.toNat + 8 + recordSize before) (before.length + 1)
      status := { s.status.succeeded with found := true }, draws := n }

/-- CONTAINER_FIND's soft miss (42_framing.md R203, R204): a container of exactly ARG1 bytes, signature and legal records,
none with the target tag, completes without error and with FOUND = 0; the result registers describe the last record, or
are 0 with none; RES_COUNT counts them all. -/
def Obligations.ContainerFindSoftMiss : Prop :=
  ∀ (s : State) (rs : List Rec),
    (∀ q ∈ rs, q.legal = true ∧ q.tag ≠ s.arg2) →
    s.arg0.toNat + s.arg1.toNat ≤ s.bufBytes → 8 + recordSize rs = s.arg1.toNat →
    s.mem.holds s.arg0.toNat (signature ++ recordBytes rs) = true →
    ∃ n, exec .containerFind s = .next { s with
      res := lastResults (s.arg0.toNat + 8) rs
      status := { s.status.succeeded with found := false }, draws := n }

/-- CHUNK_FIND finds the first match among records from ARG0 on, without a signature (42_framing.md R205, R197, R207). -/
def Obligations.ChunkFindFindsFirstMatch : Prop :=
  ∀ (s : State) (before : List Rec) (r : Rec),
    (∀ q ∈ before, q.legal = true ∧ q.tag ≠ s.arg2) → r.legal = true → r.tag = s.arg2 →
    s.arg0.toNat + s.arg1.toNat ≤ s.bufBytes → recordSize (before ++ [r]) ≤ s.arg1.toNat →
    s.mem.holds s.arg0.toNat (recordBytes (before ++ [r])) = true →
    ∃ n, exec .chunkFind s = .next { s with
      res := r.results (s.arg0.toNat + recordSize before) (before.length + 1)
      status := { s.status.succeeded with found := true }, draws := n }

/-- CHUNK_FIND's soft miss (42_framing.md R205, R204). -/
def Obligations.ChunkFindSoftMiss : Prop :=
  ∀ (s : State) (rs : List Rec),
    (∀ q ∈ rs, q.legal = true ∧ q.tag ≠ s.arg2) →
    s.arg0.toNat + s.arg1.toNat ≤ s.bufBytes → recordSize rs = s.arg1.toNat →
    s.mem.holds s.arg0.toNat (recordBytes rs) = true →
    ∃ n, exec .chunkFind s = .next { s with
      res := lastResults s.arg0.toNat rs
      status := { s.status.succeeded with found := false }, draws := n }

/-- A walk checks at most floor(L / 12) records (42_framing.md R215): RES_COUNT after CHUNK_FIND or CONTAINER_FIND,
however it ends, is at most ARG1 / 12. And how it ends, over any bytes of a region in range (R197, R203, R205): it goes by
what it reads, each byte the one written there or any where none was (20_memory.md R90). CONTAINER_FIND goes on from a
region of eight bytes or more that it reads to begin with the signature. Having passed records without the target tag,
the walk then stands at the region's end (the soft miss, R204); or with fewer than 12 bytes left (TRUNCATED); or at a
record with an illegal length (BAD_LENGTH), or one that does not fit (TRUNCATED), or with another CRC (INVALID_CHECKSUM,
whatever its tag), or one that passes and has the target tag (found). Nothing else changes. -/
def Obligations.WalkBoundAndOutcome : Prop :=
  (∀ s t : State, exec .chunkFind s = .next t ∨ exec .containerFind s = .next t →
    t.res.count.toNat ≤ s.arg1.toNat / 12)
  ∧ ∀ (s : State) (i : Instr), i = .chunkFind ∨ i = .containerFind → s.arg0.toNat + s.arg1.toNat ≤ s.bufBytes →
    (walkPrefix i).length ≤ s.arg1.toNat →
    let start := s.arg0.toNat + (walkPrefix i).length
    let stop := s.arg0.toNat + s.arg1.toNat
    let failing := fun e p r => ∃ n, exec i s = .next { s with
      res := r, status := s.status.failed e, errInfo := BitVec.ofNat 32 p, draws := n }
    let ending := fun found r => ∃ n, exec i s = .next { s with
      res := r, status := { s.status.succeeded with found := found }, draws := n }
    ∃ bs, bs.length = (walkPrefix i).length ∧ s.mem.admits s.arg0.toNat bs = true
      ∧ (bs ≠ walkPrefix i → failing .invalidSignature s.arg0.toNat {})
      ∧ (bs = walkPrefix i → ∃ qs p, PassesAll s.mem s.arg2 stop start qs p ∧ p ≤ stop
        ∧ (p = stop → ending false (passedResults start qs))
        ∧ (p < stop → stop < p + 12 → failing .truncated p (passedResults start qs))
        ∧ (p + 12 ≤ stop → ∃ q : RecordRead, q.Admitted s.mem p
          ∧ (0x7FFFFFFF < q.len.toNat → failing .badLength p (passedResults start qs))
          ∧ (q.len.toNat ≤ 0x7FFFFFFF → stop < p + q.size → failing .truncated p (passedResults start qs))
          ∧ (q.len.toNat ≤ 0x7FFFFFFF → p + q.size ≤ stop → crc32 q.body ≠ q.stored →
            failing .invalidChecksum p (q.results p qs.length))
          ∧ (q.Passes p stop → q.tag = s.arg2 ∧ ending true (q.results p (qs.length + 1)))))

/-! ### Errors -/

/-- RANGE and the operand half of BAD_LENGTH (60_exceptions.md R274, R275, R279; 20_memory.md R83): each command whose
operands name a byte at BUF_BYTES or above completes with code RANGE and ARG0; the frame commands have cleared the result
registers; nothing else changes. The sums are of integers and do not wrap. CHUNK_BUILD tests its length first: above
0x7FFFFFFF it gives BAD_LENGTH, wherever ARG0 points. -/
def Obligations.OperandErrorsTaken : Prop :=
  ∀ s : State,
    (s.bufBytes < s.arg0.toNat + s.arg1.toNat →
      (∀ i ∈ [Instr.crcBuf, .crcBufI, .adlerBuf, .adlerBufI], exec i s = .next { s with
        status := s.status.failed .range, errInfo := s.arg0 })
      ∧ (∀ i ∈ [Instr.chunkCheck, .containerFind, .chunkFind], exec i s = .next { s with
        res := {}, status := s.status.failed .range, errInfo := s.arg0 }))
    ∧ (s.bufBytes < s.arg0.toNat + 4 →
      ∀ i ∈ [Instr.crcStore, .crcCheck, .adlerStore, .adlerCheck], exec i s = .next { s with
        status := s.status.failed .range, errInfo := s.arg0 })
    ∧ (s.bufBytes < s.arg0.toNat + 8 →
      ∀ i ∈ [Instr.sigWrite, .sigCheck], exec i s = .next { s with
        status := s.status.failed .range, errInfo := s.arg0 })
    ∧ (s.arg1.toNat ≤ 0x7FFFFFFF → s.bufBytes < s.arg0.toNat + 12 + s.arg1.toNat →
      exec .chunkBuild s = .next { s with
        res := {}, status := s.status.failed .range, errInfo := s.arg0 })
    ∧ (0x7FFFFFFF < s.arg1.toNat →
      exec .chunkBuild s = .next { s with
        res := {}, status := s.status.failed .badLength, errInfo := s.arg0 })

/-- CONTAINER_FIND tests the signature before any record (42_framing.md R203, 60_exceptions.md R271): in range, a container
shorter than 8 bytes, or one whose first eight bytes, each as written or any where none was (20_memory.md R90), are read
as another sequence, fails with INVALID_SIGNATURE and ARG0, the result registers 0. Where they are read as the signature it
completes and that error is not its. -/
def Obligations.ContainerFindBadSignature : Prop :=
  ∀ s : State, s.arg0.toNat + s.arg1.toNat ≤ s.bufBytes →
    (s.arg1.toNat < 8 → ∃ n, exec .containerFind s = .next { s with
      res := {}, status := s.status.failed .invalidSignature, errInfo := s.arg0, draws := n })
    ∧ (8 ≤ s.arg1.toNat → ∃ bs, bs.length = 8 ∧ s.mem.admits s.arg0.toNat bs = true
      ∧ (bs ≠ signature → ∃ n, exec .containerFind s = .next { s with
        res := {}, status := s.status.failed .invalidSignature, errInfo := s.arg0, draws := n })
      ∧ (bs = signature → ∃ t, exec .containerFind s = .next t
        ∧ (t.status.errCode = .invalidSignature → s.status.errCode = .invalidSignature)))

/-- Errors are precise (60_exceptions.md R278): a command that starts with ERR = 0 and ends with ERR = 1 has written no
buffer byte and no accumulator. -/
def Obligations.ErrorsArePrecise : Prop :=
  ∀ (s t : State) (i : Instr), isCommand i = true → s.status.err = false → exec i s = .next t → t.status.err = true →
    t.mem = s.mem ∧ t.crcState = s.crcState ∧ t.adlerValue = s.adlerValue

/-- Every command completes: its execution answers a next state with BUSY = 0 and DONE = 1, the block's registers CTRL,
ARG0 to ARG2, BUF_SIZE, BUF_ADDR and ACC_ERR as before (10_state.md R22, R51; 43_control.md R241), and the host's side
(what it does next, what it last read) too. -/
def Obligations.CommandsCompleteAndKeepOperands : Prop :=
  ∀ (s : State) (i : Instr), isCommand i = true →
    ∃ t, exec i s = .next t ∧ t.status.busy = false ∧ t.status.done = true
      ∧ t.ctrl = s.ctrl ∧ t.arg0 = s.arg0 ∧ t.arg1 = s.arg1 ∧ t.arg2 = s.arg2 ∧ t.bufSize = s.bufSize
      ∧ t.bufAddr = s.bufAddr ∧ t.status.accErr = s.status.accErr ∧ t.curCmd = s.curCmd
      ∧ t.inputs = s.inputs ∧ t.wait = s.wait ∧ t.readData = s.readData

/-- The accumulators are independent (10_state.md R20, 42_framing.md R208). Writing: only the rolling checksum's updating
operations change ADLER_VALUE, only the CRC's change CRC_STATE; a frame or signature command changes neither. Reading:
but for the operations of its own engine, what an operation does is the same whatever an accumulator holds, which it
carries along unchanged. Only CRC_STORE, ADLER_STORE, SIG_WRITE, CHUNK_BUILD and the two window writes change the buffer
(20_memory.md R70). Only the frame commands write result registers (10_state.md, section 6), and only CONTAINER_FIND and
CHUNK_FIND set FOUND (10_state.md R51). -/
def Obligations.EnginesDoNotTouchEachOther : Prop :=
  ∀ (s t : State) (i : Instr), exec i s = .next t → srstBit (match i with | .wrCtrl v => v | _ => 0#32) = false →
    ((∀ v, i ∉ [Instr.adlerReset, .adlerBuf, .adlerBufI, .wrAdlerValue v, .wrAdlerData8 v, .wrAdlerData32 v]) →
      t.adlerValue = s.adlerValue)
    ∧ ((∀ v, i ∉ [Instr.crcReset, .crcBuf, .crcBufI, .wrCrcState v, .wrCrcValue v, .wrCrcData8 v, .wrCrcData32 v]) →
      t.crcState = s.crcState)
    ∧ ((∀ v, i ∉ [Instr.adlerReset, .adlerBuf, .adlerBufI, .wrAdlerValue v, .wrAdlerData8 v, .wrAdlerData32 v,
        .adlerStore, .adlerCheck, .rdAdlerValue]) →
      ∀ a, exec i { s with adlerValue := a } = .next { t with adlerValue := a })
    ∧ ((∀ v, i ∉ [Instr.crcReset, .crcBuf, .crcBufI, .wrCrcState v, .wrCrcValue v, .wrCrcData8 v, .wrCrcData32 v,
        .crcStore, .crcCheck, .rdCrcState, .rdCrcValue]) →
      ∀ c, exec i { s with crcState := c } = .next { t with crcState := c })
    ∧ ((∀ v, i ∉ [Instr.crcStore, .adlerStore, .sigWrite, .chunkBuild, .wrBufData8 v, .wrBufData32 v]) → t.mem = s.mem)
    ∧ (isFrame i = false → t.res = s.res)
    ∧ (i ≠ .containerFind → i ≠ .chunkFind → t.status.found = true → s.status.found = true)

/-! ### The host's accesses -/

/-- Reads while idle return the register and change nothing else (40_crc.md R141, R143; 41_rolling.md R169;
42_framing.md R209 to R214; 43_control.md R251, R253, R259, R261, R264). -/
def Obligations.IdleReadsReturnRegisters : Prop :=
  ∀ s : State, s.status.busy = false →
    ∀ p ∈ [(Instr.rdArg0, s.arg0), (.rdArg1, s.arg1), (.rdArg2, s.arg2), (.rdCrcState, s.crcState),
        (.rdCrcValue, ~~~s.crcState), (.rdAdlerValue, s.adlerValue), (.rdBufAddr, s.bufAddr),
        (.rdResLen, s.res.len), (.rdResTag, s.res.tag), (.rdResData, s.res.data), (.rdResNext, s.res.next),
        (.rdResCrc, s.res.crc), (.rdResCount, s.res.count), (.rdErrInfo, s.errInfo), (.rdCmd, 0#32),
        (.rdCrcData8, 0#32), (.rdCrcData32, 0#32), (.rdAdlerData8, 0#32), (.rdAdlerData32, 0#32)],
      exec p.1 s = .next { s with readData := p.2 }

/-- ID, CTRL, STATUS and BUF_SIZE read alike whether BUSY is 0 or 1 (43_control.md R245, R246, R248, R250): ID the
constant, CTRL its three enables, STATUS its flags and code at their places, BUF_SIZE the size. Nothing else changes. IRQ
is 1 exactly where DONE, ERR or ACC_ERR is 1 with its enable (10_state.md R49, 60_exceptions.md R281). -/
def Obligations.OpenReadsReturnFields : Prop :=
  ∀ s : State,
    exec .rdId s = .next { s with readData := 0x434B4631#32 }
    ∧ exec .rdBufSize s = .next { s with readData := s.bufSize }
    ∧ (∃ w, exec .rdCtrl s = .next { s with readData := w }
      ∧ w.toNat = s.ctrl.doneIE.toNat + 2 * s.ctrl.errIE.toNat + 4 * s.ctrl.accIE.toNat)
    ∧ (∃ w, exec .rdStatus s = .next { s with readData := w }
      ∧ w.toNat = s.status.busy.toNat + 2 * s.status.done.toNat + 4 * s.status.err.toNat
          + 8 * s.status.found.toNat + 16 * s.status.accErr.toNat
          + 256 * (match s.status.errCode with
            | .noError => 0 | .invalidSignature => 1 | .invalidChecksum => 2 | .truncated => 3
            | .badLength => 4 | .range => 5 | .badCommand => 6))
    ∧ (s.irq = true ↔
        (s.status.done = true ∧ s.ctrl.doneIE = true) ∨ (s.status.err = true ∧ s.ctrl.errIE = true)
        ∨ (s.status.accErr = true ∧ s.ctrl.accIE = true))

/-- Writes while idle of the operand registers, the accumulators and BUF_ADDR store the word, CRC_VALUE its complement,
and change nothing else (40_crc.md R142, R144; 41_rolling.md R170; 43_control.md R252, R254). -/
def Obligations.IdleWritesStore : Prop :=
  ∀ (s : State) (v : Word), s.status.busy = false →
    exec (.wrArg0 v) s = .next { s with arg0 := v }
    ∧ exec (.wrArg1 v) s = .next { s with arg1 := v }
    ∧ exec (.wrArg2 v) s = .next { s with arg2 := v }
    ∧ exec (.wrCrcState v) s = .next { s with crcState := v }
    ∧ exec (.wrCrcValue v) s = .next { s with crcState := ~~~v }
    ∧ exec (.wrAdlerValue v) s = .next { s with adlerValue := v }
    ∧ exec (.wrBufAddr v) s = .next { s with bufAddr := v }

/-- The data ports while idle feed the low byte, or the four bytes least significant first, and change nothing else
(40_crc.md R145, R146; 41_rolling.md R171, R172; 20_memory.md R75). -/
def Obligations.DataPortsFeed : Prop :=
  ∀ (s : State) (v : Word), s.status.busy = false →
    exec (.wrCrcData8 v) s = .next { s with crcState := crcByte s.crcState (BitVec.ofNat 8 v.toNat) }
    ∧ exec (.wrAdlerData8 v) s = .next { s with adlerValue := adlerByte s.adlerValue (BitVec.ofNat 8 v.toNat) }
    ∧ (∀ b3 b2 b1 b0 : Byte, v = b3 ++ b2 ++ b1 ++ b0 →
      exec (.wrCrcData32 v) s = .next { s with
        crcState := crcByte (crcByte (crcByte (crcByte s.crcState b0) b1) b2) b3 }
      ∧ exec (.wrAdlerData32 v) s = .next { s with
        adlerValue := adlerByte (adlerByte (adlerByte (adlerByte s.adlerValue b0) b1) b2) b3 })

/-- Writes to read-only registers (43_control.md R260), by their keys: while idle none has an effect or sets a flag; while
BUSY = 1 those to ID and BUF_SIZE still have none, those to the result registers and ERR_INFO set ACC_ERR alone. -/
def Obligations.ReadOnlyWritesIgnored : Prop :=
  ∀ (s : State) (v : Word),
    (∀ p ∈ [(0x000, Instr.wrId v), (0x01C, .wrBufSize v)],
      encode p.2 = .access (.write .w32 p.1 v) ∧ exec p.2 s = .next s)
    ∧ (∀ p ∈ [(0x050, Instr.wrResLen v), (0x054, .wrResTag v), (0x058, .wrResData v), (0x05C, .wrResNext v),
          (0x060, .wrResCrc v), (0x064, .wrResCount v), (0x068, .wrErrInfo v)],
      encode p.2 = .access (.write .w32 p.1 v)
      ∧ (s.status.busy = false → exec p.2 s = .next s)
      ∧ (s.status.busy = true → exec p.2 s = .next { s with status := { s.status with accErr := true } }))

/-- Reserved offsets (43_control.md R263, 10_state.md R52), busy or not: a read returns 0 and a write has no effect,
ACC_ERR not set, at 0x034, 0x04C and every multiple of 4 from 0x06C to 0xFFC. The reserved bits of CTRL and STATUS read
0 and a write that differs in them alone does the same. -/
def Obligations.ReservedSpaceInert : Prop :=
  ∀ (s : State) (v : Word),
    (∀ off, off % 4 = 0 → off ≤ 0xFFC → off = 0x034 ∨ off = 0x04C ∨ 0x06C ≤ off →
      (∃ i, decode (.access (.read .w32 off)) = .ok i ∧ exec i s = .next { s with readData := 0#32 })
      ∧ (∃ i, decode (.access (.write .w32 off v)) = .ok i ∧ exec i s = .next s))
    ∧ (∃ t, exec .rdCtrl s = .next t ∧ t.readData.toNat < 2 ^ 3)
    ∧ (∃ t, exec .rdStatus s = .next t ∧ t.readData.toNat < 2 ^ 12 ∧ t.readData.toNat / 2 ^ 5 % 2 ^ 3 = 0)
    ∧ exec (.wrCtrl v) s = exec (.wrCtrl (v &&& 0x80000007#32)) s
    ∧ exec (.wrStatus v) s = exec (.wrStatus (v &&& 0x00000016#32)) s

/-- The rows of the reserved ranges complete, with every word index (43_control.md R263). -/
def Obligations.ReservedRowsComplete : Prop :=
  ∀ (s : State) (v : Word) (k2 : BitVec 2) (k5 : BitVec 5) (k6 : BitVec 6) (k7 : BitVec 7) (k8 : BitVec 8)
    (k9 : BitVec 9),
    (∀ i ∈ [Instr.rdRsv034, .rdRsv04C, .rdRsv06C, .rdRsv070 k2, .rdRsv080 k5, .rdRsv100 k6, .rdRsv200 k7,
        .rdRsv400 k8, .rdRsv800 k9], exec i s = .next { s with readData := 0#32 })
    ∧ (∀ i ∈ [Instr.wrRsv034 v, .wrRsv04C v, .wrRsv06C v, .wrRsv070 k2 v, .wrRsv080 k5 v, .wrRsv100 k6 v,
        .wrRsv200 k7 v, .wrRsv400 k8 v, .wrRsv800 k9 v], exec i s = .next s)

/-- Window reads in range, while idle (43_control.md R256, R258; 20_memory.md R75, R90): the byte, or the four bytes
least significant first, each the one written there or any; BUF_ADDR advances without wrapping. Nothing else changes. -/
def Obligations.WindowReadsComplete : Prop :=
  ∀ s : State, s.status.busy = false →
    (s.bufAddr.toNat < s.bufBytes →
      ∃ b0 p n, s.mem.admits s.bufAddr.toNat [b0] = true ∧ p.toNat = s.bufAddr.toNat + 1
        ∧ exec .rdBufData8 s = .next { s with readData := 0#24 ++ b0, bufAddr := p, draws := n })
    ∧ (s.bufAddr.toNat + 4 ≤ s.bufBytes →
      ∃ b0 b1 b2 b3 p n, s.mem.admits s.bufAddr.toNat [b0, b1, b2, b3] = true ∧ p.toNat = s.bufAddr.toNat + 4
        ∧ exec .rdBufData32 s = .next { s with readData := b3 ++ b2 ++ b1 ++ b0, bufAddr := p, draws := n })

/-- Window writes in range, while idle (43_control.md R255, R257; 20_memory.md R75): the low byte, or the four bytes least
significant first, stored at BUF_ADDR, every other byte as before; BUF_ADDR advances without wrapping. Nothing else
changes. -/
def Obligations.WindowWritesComplete : Prop :=
  ∀ (s : State) (v : Word), s.status.busy = false →
    (s.bufAddr.toNat < s.bufBytes →
      ∃ m p, s.mem.Stored s.bufAddr.toNat [BitVec.ofNat 8 v.toNat] m ∧ p.toNat = s.bufAddr.toNat + 1
        ∧ exec (.wrBufData8 v) s = .next { s with mem := m, bufAddr := p })
    ∧ (∀ b3 b2 b1 b0 : Byte, v = b3 ++ b2 ++ b1 ++ b0 → s.bufAddr.toNat + 4 ≤ s.bufBytes →
      ∃ m p, s.mem.Stored s.bufAddr.toNat [b0, b1, b2, b3] m ∧ p.toNat = s.bufAddr.toNat + 4
        ∧ exec (.wrBufData32 v) s = .next { s with mem := m, bufAddr := p })

/-- Window accesses out of range, while idle (43_control.md R255 to R258, 60_exceptions.md R280): nothing moves, BUF_ADDR
stays, ACC_ERR is set, a read returns 0; a 32-bit access that would cross the end is out of range whole. -/
def Obligations.WindowOutOfRange : Prop :=
  ∀ (s : State) (v : Word), s.status.busy = false →
    (s.bufBytes ≤ s.bufAddr.toNat →
      exec .rdBufData8 s = .next { s with readData := 0#32, status := { s.status with accErr := true } }
      ∧ exec (.wrBufData8 v) s = .next { s with status := { s.status with accErr := true } })
    ∧ (s.bufBytes < s.bufAddr.toNat + 4 →
      exec .rdBufData32 s = .next { s with readData := 0#32, status := { s.status with accErr := true } }
      ∧ exec (.wrBufData32 v) s = .next { s with status := { s.status with accErr := true } })

/-- A written word reads back (43_control.md R257, R258): after WR BUF_DATA32 in range and BUF_ADDR set back, RD
BUF_DATA32 returns it. Writing what it returned to CRC_DATA32 leaves in CRC_STATE what CRC_BUF over those four bytes
leaves (40_crc.md R146). -/
def Obligations.WindowWordsRoundTrip : Prop :=
  ∀ (s : State) (v : Word), s.status.busy = false → s.bufAddr.toNat + 4 ≤ s.bufBytes →
    ∃ t u w, execAll [.wrBufData32 v, .wrBufAddr s.bufAddr, .rdBufData32] s = .next t ∧ t.readData = v
      ∧ exec (.wrCrcData32 t.readData) t = .next u
      ∧ execAll [.wrArg0 s.bufAddr, .wrArg1 4#32, .wrCmd 0x00000002#32, .crcBuf] t = .next w
      ∧ u.crcState = w.crcState

/-- Writing back a value read from CRC_VALUE restores the state, so a checksum resumes from an exposed value: the CRC of
`d ++ e` is that of `e` continued from the seed Crc32(d) (40_crc.md R144). -/
def Obligations.CrcValueSeedsResume : Prop :=
  (∀ s : State, s.status.busy = false →
    ∃ t, exec .rdCrcValue s = .next t ∧ exec (.wrCrcValue t.readData) { t with crcState := 0#32 } = .next t)
  ∧ ∀ (s : State) (d e : List Byte), s.status.busy = false →
    ∃ t, exec (.wrCrcValue (crc32 d)) s = .next t ∧ ~~~(crcUpdate t.crcState e) = crc32 (d ++ e)

/-- A write of CMD while idle starts a command (43_control.md R240): the word is latched whatever it is, DONE, ERR,
ERRCODE and FOUND fall, BUSY rises, ACC_ERR and ERR_INFO stay, no operand or buffer byte changes. How long it will take
is open, a free value in the model's `wait` (log 5). -/
def Obligations.WriteCmdStarts : Prop :=
  ∀ (s : State) (v : Word), s.status.busy = false →
    ∃ w n, exec (.wrCmd v) s = .next { s with
      curCmd := v
      status := { busy := true, done := false, err := false, found := false, accErr := s.status.accErr,
                  errCode := .noError }
      wait := w, draws := n }

/-- A write of CTRL with bit 31 clear stores the three enables and discards the rest, at any time (43_control.md R247). -/
def Obligations.WriteCtrlStoresEnables : Prop :=
  ∀ (s : State) (v : Word), v.toNat < 2 ^ 31 →
    ∃ c, exec (.wrCtrl v) s = .next { s with ctrl := c }
      ∧ c.doneIE.toNat = v.toNat % 2 ∧ c.errIE.toNat = v.toNat / 2 % 2 ∧ c.accIE.toNat = v.toNat / 4 % 2

/-- A write of STATUS clears DONE, ERR with ERRCODE, and ACC_ERR where bits 1, 2, 4 are set, and nothing else, at any time
(43_control.md R249); IRQ is then 1 exactly where an enabled flag is left, and with all three bits set it is 0
(70_reset_and_hazards.md R311). -/
def Obligations.WriteStatusClears : Prop :=
  ∀ (s : State) (v : Word),
    ∃ t, exec (.wrStatus v) s = .next { s with status := t }
      ∧ t.busy = s.status.busy ∧ t.found = s.status.found
      ∧ t.done = (if v.toNat / 2 % 2 = 1 then false else s.status.done)
      ∧ t.err = (if v.toNat / 4 % 2 = 1 then false else s.status.err)
      ∧ t.errCode = (if v.toNat / 4 % 2 = 1 then .noError else s.status.errCode)
      ∧ t.accErr = (if v.toNat / 16 % 2 = 1 then false else s.status.accErr)
      ∧ (({ s with status := t } : State).irq = true ↔
        (t.done = true ∧ s.ctrl.doneIE = true) ∨ (t.err = true ∧ s.ctrl.errIE = true)
        ∨ (t.accErr = true ∧ s.ctrl.accIE = true))
      ∧ (v.toNat / 2 % 2 = 1 → v.toNat / 4 % 2 = 1 → v.toNat / 16 % 2 = 1 → ({ s with status := t } : State).irq = false)

/-- Busy rejection (43_control.md R262): while BUSY = 1 an access of CMD, the operands, the accumulators, the ports, the
window, the results or ERR_INFO sets ACC_ERR and does nothing else; a read returns 0. -/
def Obligations.BusyAccessesRejected : Prop :=
  ∀ (s : State) (i : Instr), s.status.busy = true → isRejectedBusy i = true →
    exec i s = .next { s with
      status := { s.status with accErr := true }
      readData := if isRead i then 0#32 else s.readData }

/-- While BUSY = 1 no host access but a soft reset changes what the command in flight reads or writes (20_memory.md R85
item 3, 43_control.md R262): CUR_CMD, the operands, the accumulators, the buffer, the results, ERR_INFO and BUF_ADDR;
BUSY stays 1, and the model's `wait` is not `exec`'s to change (log 5). -/
def Obligations.BusyAccessesKeepCommandInputs : Prop :=
  ∀ (s t : State) (i : Instr), s.status.busy = true → isCommand i = false →
    (∀ v, i = .wrCtrl v → srstBit v = false) → exec i s = .next t →
    t.status.busy = true ∧ t.curCmd = s.curCmd ∧ t.arg0 = s.arg0 ∧ t.arg1 = s.arg1 ∧ t.arg2 = s.arg2
      ∧ t.crcState = s.crcState ∧ t.adlerValue = s.adlerValue ∧ t.mem = s.mem ∧ t.res = s.res
      ∧ t.errInfo = s.errInfo ∧ t.bufAddr = s.bufAddr ∧ t.wait = s.wait

/-! ### Reset -/

/-- The values after reset (70_reset_and_hazards.md R301), IRQ 0 (R305), and no byte written (20_memory.md R90). BUF_SIZE
and CUR_CMD are left out: their values there are the model's choice (log 1, log 8). The 1 of ADLER_VALUE is the spec's,
from general knowledge (41_rolling.md R164, log 12). -/
def Obligations.ResetValues : Prop :=
  State.reset.ctrl.word = 0#32 ∧ State.reset.status.word = 0#32
  ∧ State.reset.arg0 = 0#32 ∧ State.reset.arg1 = 0#32 ∧ State.reset.arg2 = 0#32
  ∧ State.reset.crcState = 0xFFFFFFFF#32 ∧ State.reset.adlerValue = 0x00000001#32 ∧ State.reset.bufAddr = 0#32
  ∧ State.reset.res = { len := 0#32, tag := 0#32, data := 0#32, next := 0#32, crc := 0#32, count := 0#32 }
  ∧ State.reset.errInfo = 0#32 ∧ State.reset.irq = false ∧ ∀ a, State.reset.mem.lookup a = none

/-- Soft reset (70_reset_and_hazards.md R302, R303, R304, R305): a write of CTRL with bit 31 set, at any time, gives every
register its reset value, bits 30:0 ignored, and IRQ 0. While idle it changes no buffer byte. While busy the command in
flight is abandoned, the bytes of its write set are unwritten again, and every other byte is as before. That any value
is said by "unwritten", and that CUR_CMD is free after it, are the model's (log 8, log 9), as is that `inputs` and
`readData` stay (log 20). -/
def Obligations.SoftResetRestores : Prop :=
  ∀ (s : State) (v : Word), 2 ^ 31 ≤ v.toNat →
    ∃ m c n, exec (.wrCtrl v) s = .next { State.reset with
        bufSize := s.bufSize, curCmd := c, mem := m, inputs := s.inputs, draws := n, readData := s.readData }
      ∧ (s.status.busy = false → m = s.mem)
      ∧ (s.status.busy = true → ∀ a, m.lookup a = if
          ((s.curCmd = 0x00000003#32 ∨ s.curCmd = 0x0000000A#32) ∧ s.arg0.toNat + 4 ≤ s.bufBytes
            ∧ s.arg0.toNat ≤ a ∧ a < s.arg0.toNat + 4)
          ∨ (s.curCmd = 0x00000010#32 ∧ s.arg0.toNat + 8 ≤ s.bufBytes
            ∧ s.arg0.toNat ≤ a ∧ a < s.arg0.toNat + 8)
          ∨ (s.curCmd = 0x00000012#32 ∧ s.arg1.toNat ≤ 0x7FFFFFFF
            ∧ s.arg0.toNat + 12 + s.arg1.toNat ≤ s.bufBytes
            ∧ ((s.arg0.toNat ≤ a ∧ a < s.arg0.toNat + 8)
              ∨ (s.arg0.toNat + 8 + s.arg1.toNat ≤ a ∧ a < s.arg0.toNat + 12 + s.arg1.toNat)))
        then none else s.mem.lookup a)

/-- Power-on reset, idle or not, gives every register its reset value and leaves every byte unwritten
(70_reset_and_hazards.md R300, R301, R304). That RST is an event of `inputs` is the model's (log 15), and so is what the
reset does to the model's own fields (log 20). -/
def Obligations.PowerOnRestores : Prop :=
  ∀ (s : State) (rest : List HostEvent), s.engineTurn = false → s.inputs = .powerOn :: rest →
    ∃ c n, step s = .next { State.reset with
      bufSize := s.bufSize, curCmd := c, inputs := rest, draws := n, readData := s.readData }
end

