-- ==== Sys2Proof/Laws/Access.lean ====
section
/-! SUPPORT. Each register operation as the shared operation it is: a read or write open to the host at any time, or one
guarded by BUSY. A proof rewrites with these and goes on with the lemmas of Laws/Ops.lean. -/

namespace Sys2Proof.Machine

theorem exec_rdId (s : State) : exec .rdId s = openRead idValue s := rfl
theorem exec_rdCtrl (s : State) : exec .rdCtrl s = openRead s.ctrl.word s := rfl
theorem exec_wrCtrl (v : Word) (s : State) :
    exec (.wrCtrl v) s = .next (if srstBit v then softReset s else { s with ctrl := Ctrl.ofWord v }) := rfl
theorem exec_rdStatus (s : State) : exec .rdStatus s = openRead s.status.word s := rfl
theorem exec_wrStatus (v : Word) (s : State) : exec (.wrStatus v) s = .next (statusWrite s v) := rfl
theorem exec_rdCmd (s : State) : exec .rdCmd s = guardedRead (fun s => s.returns 0#32) s := rfl
theorem exec_wrCmd (v : Word) (s : State) : exec (.wrCmd v) s = guardedWrite (fun s => startCommand s v) s := rfl
theorem exec_rdArg0 (s : State) : exec .rdArg0 s = guardedRead (fun s => s.returns s.arg0) s := rfl
theorem exec_rdArg1 (s : State) : exec .rdArg1 s = guardedRead (fun s => s.returns s.arg1) s := rfl
theorem exec_rdArg2 (s : State) : exec .rdArg2 s = guardedRead (fun s => s.returns s.arg2) s := rfl
theorem exec_wrArg0 (v : Word) (s : State) :
    exec (.wrArg0 v) s = guardedWrite (fun s => { s with arg0 := v }) s := rfl
theorem exec_wrArg1 (v : Word) (s : State) :
    exec (.wrArg1 v) s = guardedWrite (fun s => { s with arg1 := v }) s := rfl
theorem exec_wrArg2 (v : Word) (s : State) :
    exec (.wrArg2 v) s = guardedWrite (fun s => { s with arg2 := v }) s := rfl
theorem exec_rdBufSize (s : State) : exec .rdBufSize s = openRead s.bufSize s := rfl
theorem exec_rdCrcState (s : State) : exec .rdCrcState s = guardedRead (fun s => s.returns s.crcState) s := rfl
theorem exec_wrCrcState (v : Word) (s : State) :
    exec (.wrCrcState v) s = guardedWrite (fun s => { s with crcState := v }) s := rfl
theorem exec_rdCrcValue (s : State) :
    exec .rdCrcValue s = guardedRead (fun s => s.returns (crcExposed s.crcState)) s := rfl
theorem exec_wrCrcValue (v : Word) (s : State) :
    exec (.wrCrcValue v) s = guardedWrite (fun s => { s with crcState := crcExposed v }) s := rfl
theorem exec_wrCrcData8 (v : Word) (s : State) :
    exec (.wrCrcData8 v) s = guardedWrite (fun s => { s with crcState := crcByte s.crcState (lowByte v) }) s := rfl
theorem exec_wrCrcData32 (v : Word) (s : State) :
    exec (.wrCrcData32 v) s = guardedWrite (fun s => { s with crcState := crcUpdate s.crcState (bytesLE v) }) s := rfl
theorem exec_rdAdlerValue (s : State) : exec .rdAdlerValue s = guardedRead (fun s => s.returns s.adlerValue) s := rfl
theorem exec_wrAdlerValue (v : Word) (s : State) :
    exec (.wrAdlerValue v) s = guardedWrite (fun s => { s with adlerValue := v }) s := rfl
theorem exec_wrAdlerData8 (v : Word) (s : State) :
    exec (.wrAdlerData8 v) s = guardedWrite (fun s => { s with adlerValue := adlerByte s.adlerValue (lowByte v) }) s := rfl
theorem exec_wrAdlerData32 (v : Word) (s : State) :
    exec (.wrAdlerData32 v) s =
      guardedWrite (fun s => { s with adlerValue := adlerUpdate s.adlerValue (bytesLE v) }) s := rfl
theorem exec_rdBufAddr (s : State) : exec .rdBufAddr s = guardedRead (fun s => s.returns s.bufAddr) s := rfl
theorem exec_wrBufAddr (v : Word) (s : State) :
    exec (.wrBufAddr v) s = guardedWrite (fun s => { s with bufAddr := v }) s := rfl
theorem exec_rdBufData8 (s : State) : exec .rdBufData8 s = guardedRead (windowRead 1) s := rfl
theorem exec_wrBufData8 (v : Word) (s : State) :
    exec (.wrBufData8 v) s = guardedWrite (windowWrite [lowByte v]) s := rfl
theorem exec_rdBufData32 (s : State) : exec .rdBufData32 s = guardedRead (windowRead 4) s := rfl
theorem exec_wrBufData32 (v : Word) (s : State) :
    exec (.wrBufData32 v) s = guardedWrite (windowWrite (bytesLE v)) s := rfl
theorem exec_rdResLen (s : State) : exec .rdResLen s = guardedRead (fun s => s.returns s.res.len) s := rfl
theorem exec_rdResTag (s : State) : exec .rdResTag s = guardedRead (fun s => s.returns s.res.tag) s := rfl
theorem exec_rdResData (s : State) : exec .rdResData s = guardedRead (fun s => s.returns s.res.data) s := rfl
theorem exec_rdResNext (s : State) : exec .rdResNext s = guardedRead (fun s => s.returns s.res.next) s := rfl
theorem exec_rdResCrc (s : State) : exec .rdResCrc s = guardedRead (fun s => s.returns s.res.crc) s := rfl
theorem exec_rdResCount (s : State) : exec .rdResCount s = guardedRead (fun s => s.returns s.res.count) s := rfl
theorem exec_rdErrInfo (s : State) : exec .rdErrInfo s = guardedRead (fun s => s.returns s.errInfo) s := rfl
theorem exec_wrId (v : Word) (s : State) : exec (.wrId v) s = ignoredWrite s := rfl
theorem exec_wrBufSize (v : Word) (s : State) : exec (.wrBufSize v) s = ignoredWrite s := rfl
theorem exec_wrResLen (v : Word) (s : State) : exec (.wrResLen v) s = guardedWrite id s := rfl
theorem exec_wrResTag (v : Word) (s : State) : exec (.wrResTag v) s = guardedWrite id s := rfl
theorem exec_wrResData (v : Word) (s : State) : exec (.wrResData v) s = guardedWrite id s := rfl
theorem exec_wrResNext (v : Word) (s : State) : exec (.wrResNext v) s = guardedWrite id s := rfl
theorem exec_wrResCrc (v : Word) (s : State) : exec (.wrResCrc v) s = guardedWrite id s := rfl
theorem exec_wrResCount (v : Word) (s : State) : exec (.wrResCount v) s = guardedWrite id s := rfl
theorem exec_wrErrInfo (v : Word) (s : State) : exec (.wrErrInfo v) s = guardedWrite id s := rfl
theorem exec_rdCrcData8 (s : State) : exec .rdCrcData8 s = guardedRead (fun s => s.returns 0#32) s := rfl
theorem exec_rdCrcData32 (s : State) : exec .rdCrcData32 s = guardedRead (fun s => s.returns 0#32) s := rfl
theorem exec_rdAdlerData8 (s : State) : exec .rdAdlerData8 s = guardedRead (fun s => s.returns 0#32) s := rfl
theorem exec_rdAdlerData32 (s : State) : exec .rdAdlerData32 s = guardedRead (fun s => s.returns 0#32) s := rfl
theorem exec_rdRsv034 (s : State) : exec .rdRsv034 s = openRead 0#32 s := rfl
theorem exec_rdRsv04C (s : State) : exec .rdRsv04C s = openRead 0#32 s := rfl
theorem exec_rdRsv06C (s : State) : exec .rdRsv06C s = openRead 0#32 s := rfl
theorem exec_rdRsv070 (k : BitVec 2) (s : State) : exec (.rdRsv070 k) s = openRead 0#32 s := rfl
theorem exec_rdRsv080 (k : BitVec 5) (s : State) : exec (.rdRsv080 k) s = openRead 0#32 s := rfl
theorem exec_rdRsv100 (k : BitVec 6) (s : State) : exec (.rdRsv100 k) s = openRead 0#32 s := rfl
theorem exec_rdRsv200 (k : BitVec 7) (s : State) : exec (.rdRsv200 k) s = openRead 0#32 s := rfl
theorem exec_rdRsv400 (k : BitVec 8) (s : State) : exec (.rdRsv400 k) s = openRead 0#32 s := rfl
theorem exec_rdRsv800 (k : BitVec 9) (s : State) : exec (.rdRsv800 k) s = openRead 0#32 s := rfl
theorem exec_wrRsv034 (v : Word) (s : State) : exec (.wrRsv034 v) s = ignoredWrite s := rfl
theorem exec_wrRsv04C (v : Word) (s : State) : exec (.wrRsv04C v) s = ignoredWrite s := rfl
theorem exec_wrRsv06C (v : Word) (s : State) : exec (.wrRsv06C v) s = ignoredWrite s := rfl
theorem exec_wrRsv070 (k : BitVec 2) (v : Word) (s : State) : exec (.wrRsv070 k v) s = ignoredWrite s := rfl
theorem exec_wrRsv080 (k : BitVec 5) (v : Word) (s : State) : exec (.wrRsv080 k v) s = ignoredWrite s := rfl
theorem exec_wrRsv100 (k : BitVec 6) (v : Word) (s : State) : exec (.wrRsv100 k v) s = ignoredWrite s := rfl
theorem exec_wrRsv200 (k : BitVec 7) (v : Word) (s : State) : exec (.wrRsv200 k v) s = ignoredWrite s := rfl
theorem exec_wrRsv400 (k : BitVec 8) (v : Word) (s : State) : exec (.wrRsv400 k v) s = ignoredWrite s := rfl
theorem exec_wrRsv800 (k : BitVec 9) (v : Word) (s : State) : exec (.wrRsv800 k v) s = ignoredWrite s := rfl

end Sys2Proof.Machine
end

