-- ==== Sys2Proof/Laws/Bytes.lean ====
section
/-! SUPPORT. The byte orders: packing undoes splitting, and each agrees with concatenation. -/

namespace Sys2Proof.Machine

/-- BE32: four bytes, the first in the highest bits, as one concatenation (00_scope.md R10). -/
theorem packBE_eq_append (b3 b2 b1 b0 : Byte) : packBE b3 b2 b1 b0 = b3 ++ b2 ++ b1 ++ b0 := by
  refine BitVec.eq_of_getLsbD_eq fun i hi => ?_
  simp only [packBE, BitVec.getLsbD_or, BitVec.getLsbD_shiftLeft, BitVec.getLsbD_setWidth, BitVec.getLsbD_append]
  interval_cases i <;> simp

/-- One byte, zero-extended. -/
theorem packLE_one (b : Byte) : packLE [b] = 0#24 ++ b := by
  refine BitVec.eq_of_getLsbD_eq fun i hi => ?_
  simp only [packLE, BitVec.getLsbD_or, BitVec.getLsbD_shiftLeft, BitVec.getLsbD_setWidth, BitVec.getLsbD_append]
  interval_cases i <;> simp

/-- Four bytes, the first in the lowest bits, as one concatenation (20_memory.md R75). -/
theorem packLE_four (b0 b1 b2 b3 : Byte) : packLE [b0, b1, b2, b3] = b3 ++ b2 ++ b1 ++ b0 := by
  refine BitVec.eq_of_getLsbD_eq fun i hi => ?_
  simp only [packLE, BitVec.getLsbD_or, BitVec.getLsbD_shiftLeft, BitVec.getLsbD_setWidth, BitVec.getLsbD_append]
  interval_cases i <;> simp

/-- The four bytes of a word, concatenated again. -/
theorem append_extract (v : Word) :
    v.extractLsb' 24 8 ++ v.extractLsb' 16 8 ++ v.extractLsb' 8 8 ++ v.extractLsb' 0 8 = v := by
  refine BitVec.eq_of_getLsbD_eq fun i hi => ?_
  simp only [BitVec.getLsbD_append, BitVec.getLsbD_extractLsb']
  interval_cases i <;> simp

/-- The bytes of a concatenation of four bytes. -/
theorem extract_append (b3 b2 b1 b0 : Byte) :
    (b3 ++ b2 ++ b1 ++ b0 : Word).extractLsb' 0 8 = b0 ∧ (b3 ++ b2 ++ b1 ++ b0 : Word).extractLsb' 8 8 = b1
    ∧ (b3 ++ b2 ++ b1 ++ b0 : Word).extractLsb' 16 8 = b2 ∧ (b3 ++ b2 ++ b1 ++ b0 : Word).extractLsb' 24 8 = b3 := by
  refine ⟨?_, ?_, ?_, ?_⟩ <;> refine BitVec.eq_of_getLsbD_eq fun i hi => ?_ <;>
    simp only [BitVec.getLsbD_append, BitVec.getLsbD_extractLsb'] <;> interval_cases i <;> simp

/-- BE32 of the bytes that PutBE32 writes (00_scope.md R10). -/
theorem packBE_bytes (v : Word) :
    packBE (v.extractLsb' 24 8) (v.extractLsb' 16 8) (v.extractLsb' 8 8) (v.extractLsb' 0 8) = v := by
  rw [packBE_eq_append, append_extract]

/-- The bytes that PutBE32 writes of what BE32 reads (00_scope.md R10). -/
theorem bytesBE_packBE (b3 b2 b1 b0 : Byte) : bytesBE (packBE b3 b2 b1 b0) = [b3, b2, b1, b0] := by
  obtain ⟨h0, h1, h2, h3⟩ := extract_append b3 b2 b1 b0
  rw [packBE_eq_append, bytesBE, h0, h1, h2, h3]

/-- Splitting a word and packing it in the window's order gives it back. -/
theorem packLE_bytesLE (v : Word) : packLE (bytesLE v) = v := by
  rw [bytesLE, packLE_four, append_extract]

@[simp] theorem length_bytesLE (v : Word) : (bytesLE v).length = 4 := rfl
@[simp] theorem length_bytesBE (v : Word) : (bytesBE v).length = 4 := rfl

end Sys2Proof.Machine
end

