-- ==== Sys2Proof/Laws/Memory.lean ====
section
/-! SUPPORT. The laws of the buffer: what each operation leaves to be read, and that each keeps the canonical form. -/

namespace Sys2Proof.Machine

/-! ### insert -/

theorem Memory.lookup_insert (m : Memory) (a : Nat) (x : Byte) (b : Nat) :
    (m.insert a x).lookup b = if a = b then some x else m.lookup b := by
  induction m with
  | nil => simp [Memory.insert, Memory.lookup]
  | cons c m ih =>
    obtain ⟨d, y⟩ := c
    simp only [Memory.insert]
    split
    · simp [Memory.lookup]
    · split
      · subst_vars
        by_cases h : d = b <;> simp [Memory.lookup, h]
      · simp only [Memory.lookup, ih]
        split <;> split <;> simp_all

theorem Memory.wf_cons (c : Host.Cell) (m : Memory) :
    Memory.wf (c :: m) = true ↔ (∀ d ∈ m, c.1 < d.1) ∧ m.wf = true := by
  induction m generalizing c with
  | nil => simp [Memory.wf]
  | cons d m ih =>
    simp only [Memory.wf, Bool.and_eq_true, decide_eq_true_eq, List.mem_cons, forall_eq_or_imp]
    constructor
    · rintro ⟨hcd, hw⟩
      exact ⟨⟨hcd, fun e he => Nat.lt_trans hcd (((ih d).1 hw).1 e he)⟩, hw⟩
    · rintro ⟨⟨hcd, -⟩, hw⟩
      exact ⟨hcd, hw⟩

theorem Memory.mem_insert (m : Memory) (a : Nat) (x : Byte) {c : Host.Cell} (h : c ∈ m.insert a x) :
    c = (a, x) ∨ c ∈ m := by
  induction m with
  | nil => simpa [Memory.insert] using h
  | cons d m ih =>
    obtain ⟨b, y⟩ := d
    simp only [Memory.insert] at h
    split at h
    · simpa using h
    · split at h
      · rcases List.mem_cons.1 h with rfl | h
        · exact .inl rfl
        · exact .inr (List.mem_cons_of_mem _ h)
      · rcases List.mem_cons.1 h with rfl | h
        · exact .inr (by simp)
        · exact (ih h).imp_right (List.mem_cons_of_mem _)

theorem Memory.insert_wf (m : Memory) (a : Nat) (x : Byte) (h : m.wf = true) : (m.insert a x).wf = true := by
  induction m with
  | nil => rfl
  | cons d m ih =>
    obtain ⟨b, y⟩ := d
    have hb := (Memory.wf_cons _ _).1 h
    simp only [Memory.insert]
    split
    · rename_i hab
      refine (Memory.wf_cons _ _).2 ⟨?_, h⟩
      intro e he
      rcases List.mem_cons.1 he with rfl | he
      · exact hab
      · exact Nat.lt_trans hab (hb.1 e he)
    · split
      · rename_i hab
        subst hab
        exact (Memory.wf_cons _ _).2 ⟨hb.1, hb.2⟩
      · refine (Memory.wf_cons _ _).2 ⟨?_, ih hb.2⟩
        intro e he
        rcases Memory.mem_insert m a x he with rfl | he
        · show b < a
          omega
        · exact hb.1 e he

/-! ### write -/

theorem Memory.lookup_write (m : Memory) (a : Nat) (bs : List Byte) (b : Nat) :
    (m.write a bs).lookup b = if a ≤ b ∧ b < a + bs.length then bs[b - a]? else m.lookup b := by
  induction bs generalizing m a with
  | nil =>
    simp only [Memory.write, List.length_nil, Nat.add_zero]
    rw [if_neg (by omega)]
  | cons x xs ih =>
    rw [Memory.write, ih, Memory.lookup_insert]
    simp only [List.length_cons]
    by_cases hab : a = b
    · subst hab
      simp
    · by_cases hlt : a ≤ b ∧ b < a + (xs.length + 1)
      · rw [if_pos (by omega), if_pos hlt]
        have : b - a = (b - (a + 1)) + 1 := by omega
        rw [this, List.getElem?_cons_succ]
      · rw [if_neg (by omega), if_neg hab, if_neg hlt]

/-- A write stores its bytes and leaves every other byte as it was. -/
theorem Memory.stored_write (m : Memory) (a : Nat) (bs : List Byte) : m.Stored a bs (m.write a bs) :=
  fun x => Memory.lookup_write m a bs x

theorem Memory.write_wf (m : Memory) (a : Nat) (bs : List Byte) (h : m.wf = true) : (m.write a bs).wf = true := by
  induction bs generalizing m a with
  | nil => exact h
  | cons x xs ih => exact ih _ _ (Memory.insert_wf m a x h)

theorem Memory.mem_write (m : Memory) (a : Nat) (bs : List Byte) {c : Host.Cell} (h : c ∈ m.write a bs) :
    (a ≤ c.1 ∧ c.1 < a + bs.length) ∨ c ∈ m := by
  induction bs generalizing m a with
  | nil => exact .inr h
  | cons x xs ih =>
    rcases ih _ _ h with h | h
    · left
      simp only [List.length_cons]
      omega
    · rcases Memory.mem_insert m a x h with rfl | h
      · left
        simp
      · exact .inr h

theorem Memory.write_write (m : Memory) (a : Nat) (xs ys : List Byte) :
    (m.write a xs).write (a + xs.length) ys = m.write a (xs ++ ys) := by
  induction xs generalizing m a with
  | nil => simp [Memory.write]
  | cons x xs ih =>
    rw [List.cons_append, Memory.write, Memory.write, ← ih]
    congr 1
    simp only [List.length_cons]
    omega

/-! ### forget -/

theorem Memory.lookup_forget (m : Memory) (a n b : Nat) :
    (m.forget a n).lookup b = if a ≤ b ∧ b < a + n then none else m.lookup b := by
  induction m with
  | nil => simp [Memory.forget, Memory.lookup]
  | cons c m ih =>
    obtain ⟨d, y⟩ := c
    unfold Memory.forget at ih ⊢
    rw [List.filter_cons]
    by_cases hd : a ≤ d ∧ d < a + n
    · rw [if_neg (by simp [hd]), ih]
      by_cases hb : a ≤ b ∧ b < a + n
      · rw [if_pos hb, if_pos hb]
      · rw [if_neg hb, if_neg hb, Memory.lookup, if_neg]
        rintro rfl
        exact hb hd
    · rw [if_pos (by simp; omega), Memory.lookup, Memory.lookup, ih]
      by_cases hdb : d = b
      · subst hdb
        rw [if_pos rfl, if_neg hd, if_pos rfl]
      · rw [if_neg hdb, if_neg hdb]

theorem Memory.mem_forget (m : Memory) (a n : Nat) {c : Host.Cell} (h : c ∈ m.forget a n) : c ∈ m :=
  List.mem_of_mem_filter h

theorem Memory.forget_wf (m : Memory) (a n : Nat) (h : m.wf = true) : (m.forget a n).wf = true := by
  induction m with
  | nil => rfl
  | cons c m ih =>
    have hc := (Memory.wf_cons _ _).1 h
    unfold Memory.forget at ih ⊢
    rw [List.filter_cons]
    split
    · exact (Memory.wf_cons _ _).2 ⟨fun d hd => hc.1 d (List.mem_of_mem_filter hd), ih hc.2⟩
    · exact ih hc.2

theorem mem_forgetSpans (m : Memory) (spans : List (Nat × Nat)) {c : Host.Cell} (h : c ∈ forgetSpans m spans) :
    c ∈ m := by
  induction spans generalizing m with
  | nil => exact h
  | cons sp spans ih => exact Memory.mem_forget m sp.1 sp.2 (ih _ h)

theorem forgetSpans_wf (m : Memory) (spans : List (Nat × Nat)) (h : m.wf = true) :
    (forgetSpans m spans).wf = true := by
  induction spans generalizing m with
  | nil => exact h
  | cons sp spans ih => exact ih _ (Memory.forget_wf m sp.1 sp.2 h)

/-! ### the canonical form -/

theorem Memory.lookup_eq_some_of_mem (m : Memory) (h : m.wf = true) {a : Nat} {x : Byte} (hm : (a, x) ∈ m) :
    m.lookup a = some x := by
  induction m with
  | nil => cases hm
  | cons c m ih =>
    obtain ⟨b, y⟩ := c
    have hc := (Memory.wf_cons _ _).1 h
    rcases List.mem_cons.1 hm with he | hm
    · cases he
      simp [Memory.lookup]
    · have := hc.1 _ hm
      simp only [Memory.lookup]
      rw [if_neg (by simp at this; omega), ih hc.2 hm]

theorem Memory.mem_of_lookup_eq_some (m : Memory) {a : Nat} {x : Byte} (h : m.lookup a = some x) : (a, x) ∈ m := by
  induction m with
  | nil => simp [Memory.lookup] at h
  | cons c m ih =>
    obtain ⟨b, y⟩ := c
    simp only [Memory.lookup] at h
    split at h
    · simp_all
    · exact List.mem_cons_of_mem _ (ih h)

/-- Memories in canonical form that read alike are equal data. -/
theorem Memory.eq_of_lookup_eq (m n : Memory) (hm : m.wf = true) (hn : n.wf = true)
    (h : ∀ a, m.lookup a = n.lookup a) : m = n := by
  induction m generalizing n with
  | nil =>
    cases n with
    | nil => rfl
    | cons c n =>
      have := h c.1
      simp [Memory.lookup] at this
  | cons c m ih =>
    cases n with
    | nil =>
      have := h c.1
      simp [Memory.lookup] at this
    | cons d n =>
      have hc := (Memory.wf_cons _ _).1 hm
      have hd := (Memory.wf_cons _ _).1 hn
      have hcm : c ∈ d :: n := Memory.mem_of_lookup_eq_some _ (by rw [← h]; simp [Memory.lookup])
      have hdm : d ∈ c :: m := Memory.mem_of_lookup_eq_some _ (by rw [h]; simp [Memory.lookup])
      have hcd : c = d := by
        rcases List.mem_cons.1 hcm with h1 | h1
        · exact h1
        · rcases List.mem_cons.1 hdm with h2 | h2
          · exact h2.symm
          · exact absurd (hd.1 _ h1) (Nat.lt_asymm (hc.1 _ h2))
      subst hcd
      congr 1
      refine ih n hc.2 hd.2 fun a => ?_
      have ha := h a
      simp only [Memory.lookup] at ha
      by_cases hca : c.1 = a
      · subst hca
        have none_of : ∀ (l : Memory), (∀ e ∈ l, c.1 < e.1) → l.lookup c.1 = none := by
          intro l hl
          cases hlk : l.lookup c.1 with
          | none => rfl
          | some x => exact absurd (hl _ (Memory.mem_of_lookup_eq_some l hlk)) (Nat.lt_irrefl _)
        rw [none_of m hc.1, none_of n hd.1]
      · rwa [if_neg hca, if_neg hca] at ha

/-! ### holds and admits -/

theorem Memory.holds_iff (m : Memory) (a : Nat) (bs : List Byte) :
    m.holds a bs = true ↔ ∀ i x, bs[i]? = some x → m.lookup (a + i) = some x := by
  induction bs generalizing a with
  | nil => simp [Memory.holds]
  | cons y ys ih =>
    simp only [Memory.holds, Bool.and_eq_true, decide_eq_true_eq, ih]
    constructor
    · rintro ⟨h0, h⟩ i x hi
      cases i with
      | zero => simp_all
      | succ i =>
        have := h i x (by simpa using hi)
        rwa [show a + (i + 1) = a + 1 + i by omega]
    · intro h
      refine ⟨by simpa using h 0 y, fun i x hi => ?_⟩
      have := h (i + 1) x (by simpa using hi)
      rwa [show a + 1 + i = a + (i + 1) by omega]

theorem Memory.holds_append (m : Memory) (a : Nat) (xs ys : List Byte) :
    m.holds a (xs ++ ys) = (m.holds a xs && m.holds (a + xs.length) ys) := by
  induction xs generalizing a with
  | nil => simp [Memory.holds]
  | cons x xs ih =>
    simp only [List.cons_append, Memory.holds, ih, List.length_cons, Bool.and_assoc]
    rw [show a + 1 + xs.length = a + (xs.length + 1) by omega]

/-- What is stored is held. -/
theorem Memory.holds_write (m : Memory) (a : Nat) (bs : List Byte) : (m.write a bs).holds a bs = true := by
  refine (Memory.holds_iff _ _ _).2 fun i x hi => ?_
  have hlt := (List.getElem?_eq_some_iff.1 hi).1
  rw [Memory.lookup_write, if_pos (by omega), show a + i - a = i by omega, hi]

/-- A write elsewhere leaves held bytes held. -/
theorem Memory.holds_write_of_disjoint (m : Memory) (a b : Nat) (xs ys : List Byte)
    (h : b + ys.length ≤ a ∨ a + xs.length ≤ b) : (m.write a xs).holds b ys = m.holds b ys := by
  rw [Bool.eq_iff_iff, Memory.holds_iff, Memory.holds_iff]
  refine forall_congr' fun i => forall_congr' fun x => imp_congr_right fun hi => ?_
  have hlt := (List.getElem?_eq_some_iff.1 hi).1
  rw [Memory.lookup_write, if_neg (by omega)]

theorem Memory.admits_iff (m : Memory) (a : Nat) (bs : List Byte) :
    m.admits a bs = true ↔ ∀ i x, bs[i]? = some x → m.lookup (a + i) = some x ∨ m.lookup (a + i) = none := by
  induction bs generalizing a with
  | nil => simp [Memory.admits]
  | cons y ys ih =>
    simp only [Memory.admits, Bool.and_eq_true, Bool.or_eq_true, decide_eq_true_eq, ih]
    constructor
    · rintro ⟨h0, h⟩ i x hi
      cases i with
      | zero => simp_all
      | succ i =>
        have := h i x (by simpa using hi)
        rwa [show a + (i + 1) = a + 1 + i by omega]
    · intro h
      refine ⟨by simpa using h 0 y, fun i x hi => ?_⟩
      have := h (i + 1) x (by simpa using hi)
      rwa [show a + 1 + i = a + (i + 1) by omega]

/-- The memory of the reset state has the canonical form. -/
theorem State.reset_mem_wf : State.reset.mem.wf = true := rfl

end Sys2Proof.Machine
end

