-- ==== Sys2Proof/Laws/State.lean ====
section
/-! SUPPORT. What each update of the state leaves in each field, so that no proof unfolds a record update. -/

namespace Sys2Proof.Machine

/-! ### nextDraw -/

@[simp] theorem nextDraw_ctrl (s : State) : s.nextDraw.ctrl = s.ctrl := rfl
@[simp] theorem nextDraw_status (s : State) : s.nextDraw.status = s.status := rfl
@[simp] theorem nextDraw_arg0 (s : State) : s.nextDraw.arg0 = s.arg0 := rfl
@[simp] theorem nextDraw_arg1 (s : State) : s.nextDraw.arg1 = s.arg1 := rfl
@[simp] theorem nextDraw_arg2 (s : State) : s.nextDraw.arg2 = s.arg2 := rfl
@[simp] theorem nextDraw_bufSize (s : State) : s.nextDraw.bufSize = s.bufSize := rfl
@[simp] theorem nextDraw_crcState (s : State) : s.nextDraw.crcState = s.crcState := rfl
@[simp] theorem nextDraw_adlerValue (s : State) : s.nextDraw.adlerValue = s.adlerValue := rfl
@[simp] theorem nextDraw_bufAddr (s : State) : s.nextDraw.bufAddr = s.bufAddr := rfl
@[simp] theorem nextDraw_res (s : State) : s.nextDraw.res = s.res := rfl
@[simp] theorem nextDraw_errInfo (s : State) : s.nextDraw.errInfo = s.errInfo := rfl
@[simp] theorem nextDraw_curCmd (s : State) : s.nextDraw.curCmd = s.curCmd := rfl
@[simp] theorem nextDraw_mem (s : State) : s.nextDraw.mem = s.mem := rfl
@[simp] theorem nextDraw_inputs (s : State) : s.nextDraw.inputs = s.inputs := rfl
@[simp] theorem nextDraw_wait (s : State) : s.nextDraw.wait = s.wait := rfl
@[simp] theorem nextDraw_draws (s : State) : s.nextDraw.draws = s.draws + 1 := rfl
@[simp] theorem nextDraw_readData (s : State) : s.nextDraw.readData = s.readData := rfl

/-! ### memWrite -/

@[simp] theorem memWrite_ctrl (s : State) (a : Nat) (bs : List Byte) : (s.memWrite a bs).ctrl = s.ctrl := rfl
@[simp] theorem memWrite_status (s : State) (a : Nat) (bs : List Byte) : (s.memWrite a bs).status = s.status := rfl
@[simp] theorem memWrite_arg0 (s : State) (a : Nat) (bs : List Byte) : (s.memWrite a bs).arg0 = s.arg0 := rfl
@[simp] theorem memWrite_arg1 (s : State) (a : Nat) (bs : List Byte) : (s.memWrite a bs).arg1 = s.arg1 := rfl
@[simp] theorem memWrite_arg2 (s : State) (a : Nat) (bs : List Byte) : (s.memWrite a bs).arg2 = s.arg2 := rfl
@[simp] theorem memWrite_bufSize (s : State) (a : Nat) (bs : List Byte) : (s.memWrite a bs).bufSize = s.bufSize := rfl
@[simp] theorem memWrite_crcState (s : State) (a : Nat) (bs : List Byte) : (s.memWrite a bs).crcState = s.crcState := rfl
@[simp] theorem memWrite_adlerValue (s : State) (a : Nat) (bs : List Byte) : (s.memWrite a bs).adlerValue = s.adlerValue := rfl
@[simp] theorem memWrite_bufAddr (s : State) (a : Nat) (bs : List Byte) : (s.memWrite a bs).bufAddr = s.bufAddr := rfl
@[simp] theorem memWrite_res (s : State) (a : Nat) (bs : List Byte) : (s.memWrite a bs).res = s.res := rfl
@[simp] theorem memWrite_errInfo (s : State) (a : Nat) (bs : List Byte) : (s.memWrite a bs).errInfo = s.errInfo := rfl
@[simp] theorem memWrite_curCmd (s : State) (a : Nat) (bs : List Byte) : (s.memWrite a bs).curCmd = s.curCmd := rfl
@[simp] theorem memWrite_mem (s : State) (a : Nat) (bs : List Byte) : (s.memWrite a bs).mem = s.mem.write a bs := rfl
@[simp] theorem memWrite_inputs (s : State) (a : Nat) (bs : List Byte) : (s.memWrite a bs).inputs = s.inputs := rfl
@[simp] theorem memWrite_wait (s : State) (a : Nat) (bs : List Byte) : (s.memWrite a bs).wait = s.wait := rfl
@[simp] theorem memWrite_draws (s : State) (a : Nat) (bs : List Byte) : (s.memWrite a bs).draws = s.draws := rfl
@[simp] theorem memWrite_readData (s : State) (a : Nat) (bs : List Byte) : (s.memWrite a bs).readData = s.readData := rfl

/-! ### putBE32 -/

@[simp] theorem putBE32_ctrl (s : State) (a : Nat) (v : Word) : (s.putBE32 a v).ctrl = s.ctrl := rfl
@[simp] theorem putBE32_status (s : State) (a : Nat) (v : Word) : (s.putBE32 a v).status = s.status := rfl
@[simp] theorem putBE32_arg0 (s : State) (a : Nat) (v : Word) : (s.putBE32 a v).arg0 = s.arg0 := rfl
@[simp] theorem putBE32_arg1 (s : State) (a : Nat) (v : Word) : (s.putBE32 a v).arg1 = s.arg1 := rfl
@[simp] theorem putBE32_arg2 (s : State) (a : Nat) (v : Word) : (s.putBE32 a v).arg2 = s.arg2 := rfl
@[simp] theorem putBE32_bufSize (s : State) (a : Nat) (v : Word) : (s.putBE32 a v).bufSize = s.bufSize := rfl
@[simp] theorem putBE32_crcState (s : State) (a : Nat) (v : Word) : (s.putBE32 a v).crcState = s.crcState := rfl
@[simp] theorem putBE32_adlerValue (s : State) (a : Nat) (v : Word) : (s.putBE32 a v).adlerValue = s.adlerValue := rfl
@[simp] theorem putBE32_bufAddr (s : State) (a : Nat) (v : Word) : (s.putBE32 a v).bufAddr = s.bufAddr := rfl
@[simp] theorem putBE32_res (s : State) (a : Nat) (v : Word) : (s.putBE32 a v).res = s.res := rfl
@[simp] theorem putBE32_errInfo (s : State) (a : Nat) (v : Word) : (s.putBE32 a v).errInfo = s.errInfo := rfl
@[simp] theorem putBE32_curCmd (s : State) (a : Nat) (v : Word) : (s.putBE32 a v).curCmd = s.curCmd := rfl
@[simp] theorem putBE32_mem (s : State) (a : Nat) (v : Word) : (s.putBE32 a v).mem = s.mem.write a (bytesBE v) := rfl
@[simp] theorem putBE32_inputs (s : State) (a : Nat) (v : Word) : (s.putBE32 a v).inputs = s.inputs := rfl
@[simp] theorem putBE32_wait (s : State) (a : Nat) (v : Word) : (s.putBE32 a v).wait = s.wait := rfl
@[simp] theorem putBE32_draws (s : State) (a : Nat) (v : Word) : (s.putBE32 a v).draws = s.draws := rfl
@[simp] theorem putBE32_readData (s : State) (a : Nat) (v : Word) : (s.putBE32 a v).readData = s.readData := rfl

/-! ### errorCapture -/

@[simp] theorem errorCapture_ctrl (s : State) (e : ErrorCode) (info : Word) : (errorCapture e info s).ctrl = s.ctrl := rfl
@[simp] theorem errorCapture_status (s : State) (e : ErrorCode) (info : Word) : (errorCapture e info s).status = { s.status with err := true, errCode := e } := rfl
@[simp] theorem errorCapture_arg0 (s : State) (e : ErrorCode) (info : Word) : (errorCapture e info s).arg0 = s.arg0 := rfl
@[simp] theorem errorCapture_arg1 (s : State) (e : ErrorCode) (info : Word) : (errorCapture e info s).arg1 = s.arg1 := rfl
@[simp] theorem errorCapture_arg2 (s : State) (e : ErrorCode) (info : Word) : (errorCapture e info s).arg2 = s.arg2 := rfl
@[simp] theorem errorCapture_bufSize (s : State) (e : ErrorCode) (info : Word) : (errorCapture e info s).bufSize = s.bufSize := rfl
@[simp] theorem errorCapture_crcState (s : State) (e : ErrorCode) (info : Word) : (errorCapture e info s).crcState = s.crcState := rfl
@[simp] theorem errorCapture_adlerValue (s : State) (e : ErrorCode) (info : Word) : (errorCapture e info s).adlerValue = s.adlerValue := rfl
@[simp] theorem errorCapture_bufAddr (s : State) (e : ErrorCode) (info : Word) : (errorCapture e info s).bufAddr = s.bufAddr := rfl
@[simp] theorem errorCapture_res (s : State) (e : ErrorCode) (info : Word) : (errorCapture e info s).res = s.res := rfl
@[simp] theorem errorCapture_errInfo (s : State) (e : ErrorCode) (info : Word) : (errorCapture e info s).errInfo = info := rfl
@[simp] theorem errorCapture_curCmd (s : State) (e : ErrorCode) (info : Word) : (errorCapture e info s).curCmd = s.curCmd := rfl
@[simp] theorem errorCapture_mem (s : State) (e : ErrorCode) (info : Word) : (errorCapture e info s).mem = s.mem := rfl
@[simp] theorem errorCapture_inputs (s : State) (e : ErrorCode) (info : Word) : (errorCapture e info s).inputs = s.inputs := rfl
@[simp] theorem errorCapture_wait (s : State) (e : ErrorCode) (info : Word) : (errorCapture e info s).wait = s.wait := rfl
@[simp] theorem errorCapture_draws (s : State) (e : ErrorCode) (info : Word) : (errorCapture e info s).draws = s.draws := rfl
@[simp] theorem errorCapture_readData (s : State) (e : ErrorCode) (info : Word) : (errorCapture e info s).readData = s.readData := rfl

/-! ### completed -/

@[simp] theorem completed_ctrl (s : State) : s.completed.ctrl = s.ctrl := rfl
@[simp] theorem completed_status (s : State) : s.completed.status = { s.status with busy := false, done := true } := rfl
@[simp] theorem completed_arg0 (s : State) : s.completed.arg0 = s.arg0 := rfl
@[simp] theorem completed_arg1 (s : State) : s.completed.arg1 = s.arg1 := rfl
@[simp] theorem completed_arg2 (s : State) : s.completed.arg2 = s.arg2 := rfl
@[simp] theorem completed_bufSize (s : State) : s.completed.bufSize = s.bufSize := rfl
@[simp] theorem completed_crcState (s : State) : s.completed.crcState = s.crcState := rfl
@[simp] theorem completed_adlerValue (s : State) : s.completed.adlerValue = s.adlerValue := rfl
@[simp] theorem completed_bufAddr (s : State) : s.completed.bufAddr = s.bufAddr := rfl
@[simp] theorem completed_res (s : State) : s.completed.res = s.res := rfl
@[simp] theorem completed_errInfo (s : State) : s.completed.errInfo = s.errInfo := rfl
@[simp] theorem completed_curCmd (s : State) : s.completed.curCmd = s.curCmd := rfl
@[simp] theorem completed_mem (s : State) : s.completed.mem = s.mem := rfl
@[simp] theorem completed_inputs (s : State) : s.completed.inputs = s.inputs := rfl
@[simp] theorem completed_wait (s : State) : s.completed.wait = s.wait := rfl
@[simp] theorem completed_draws (s : State) : s.completed.draws = s.draws := rfl
@[simp] theorem completed_readData (s : State) : s.completed.readData = s.readData := rfl

/-! ### statusWrite -/

@[simp] theorem statusWrite_ctrl (s : State) (v : Word) : (statusWrite s v).ctrl = s.ctrl := rfl
@[simp] theorem statusWrite_status (s : State) (v : Word) : (statusWrite s v).status = s.status.w1c v := rfl
@[simp] theorem statusWrite_arg0 (s : State) (v : Word) : (statusWrite s v).arg0 = s.arg0 := rfl
@[simp] theorem statusWrite_arg1 (s : State) (v : Word) : (statusWrite s v).arg1 = s.arg1 := rfl
@[simp] theorem statusWrite_arg2 (s : State) (v : Word) : (statusWrite s v).arg2 = s.arg2 := rfl
@[simp] theorem statusWrite_bufSize (s : State) (v : Word) : (statusWrite s v).bufSize = s.bufSize := rfl
@[simp] theorem statusWrite_crcState (s : State) (v : Word) : (statusWrite s v).crcState = s.crcState := rfl
@[simp] theorem statusWrite_adlerValue (s : State) (v : Word) : (statusWrite s v).adlerValue = s.adlerValue := rfl
@[simp] theorem statusWrite_bufAddr (s : State) (v : Word) : (statusWrite s v).bufAddr = s.bufAddr := rfl
@[simp] theorem statusWrite_res (s : State) (v : Word) : (statusWrite s v).res = s.res := rfl
@[simp] theorem statusWrite_errInfo (s : State) (v : Word) : (statusWrite s v).errInfo = s.errInfo := rfl
@[simp] theorem statusWrite_curCmd (s : State) (v : Word) : (statusWrite s v).curCmd = s.curCmd := rfl
@[simp] theorem statusWrite_mem (s : State) (v : Word) : (statusWrite s v).mem = s.mem := rfl
@[simp] theorem statusWrite_inputs (s : State) (v : Word) : (statusWrite s v).inputs = s.inputs := rfl
@[simp] theorem statusWrite_wait (s : State) (v : Word) : (statusWrite s v).wait = s.wait := rfl
@[simp] theorem statusWrite_draws (s : State) (v : Word) : (statusWrite s v).draws = s.draws := rfl
@[simp] theorem statusWrite_readData (s : State) (v : Word) : (statusWrite s v).readData = s.readData := rfl

/-! ### startCommand -/

@[simp] theorem startCommand_ctrl (s : State) (w : Word) : (startCommand s w).ctrl = s.ctrl := rfl
@[simp] theorem startCommand_status (s : State) (w : Word) : (startCommand s w).status = s.status.started := rfl
@[simp] theorem startCommand_arg0 (s : State) (w : Word) : (startCommand s w).arg0 = s.arg0 := rfl
@[simp] theorem startCommand_arg1 (s : State) (w : Word) : (startCommand s w).arg1 = s.arg1 := rfl
@[simp] theorem startCommand_arg2 (s : State) (w : Word) : (startCommand s w).arg2 = s.arg2 := rfl
@[simp] theorem startCommand_bufSize (s : State) (w : Word) : (startCommand s w).bufSize = s.bufSize := rfl
@[simp] theorem startCommand_crcState (s : State) (w : Word) : (startCommand s w).crcState = s.crcState := rfl
@[simp] theorem startCommand_adlerValue (s : State) (w : Word) : (startCommand s w).adlerValue = s.adlerValue := rfl
@[simp] theorem startCommand_bufAddr (s : State) (w : Word) : (startCommand s w).bufAddr = s.bufAddr := rfl
@[simp] theorem startCommand_res (s : State) (w : Word) : (startCommand s w).res = s.res := rfl
@[simp] theorem startCommand_errInfo (s : State) (w : Word) : (startCommand s w).errInfo = s.errInfo := rfl
@[simp] theorem startCommand_curCmd (s : State) (w : Word) : (startCommand s w).curCmd = w := rfl
@[simp] theorem startCommand_mem (s : State) (w : Word) : (startCommand s w).mem = s.mem := rfl
@[simp] theorem startCommand_inputs (s : State) (w : Word) : (startCommand s w).inputs = s.inputs := rfl
@[simp] theorem startCommand_wait (s : State) (w : Word) : (startCommand s w).wait = Config.busyAccesses s.draws := rfl
@[simp] theorem startCommand_draws (s : State) (w : Word) : (startCommand s w).draws = s.draws + 1 := rfl
@[simp] theorem startCommand_readData (s : State) (w : Word) : (startCommand s w).readData = s.readData := rfl

/-! ### accError -/

@[simp] theorem accError_ctrl (s : State) : s.accError.ctrl = s.ctrl := rfl
@[simp] theorem accError_status (s : State) : s.accError.status = { s.status with accErr := true } := rfl
@[simp] theorem accError_arg0 (s : State) : s.accError.arg0 = s.arg0 := rfl
@[simp] theorem accError_arg1 (s : State) : s.accError.arg1 = s.arg1 := rfl
@[simp] theorem accError_arg2 (s : State) : s.accError.arg2 = s.arg2 := rfl
@[simp] theorem accError_bufSize (s : State) : s.accError.bufSize = s.bufSize := rfl
@[simp] theorem accError_crcState (s : State) : s.accError.crcState = s.crcState := rfl
@[simp] theorem accError_adlerValue (s : State) : s.accError.adlerValue = s.adlerValue := rfl
@[simp] theorem accError_bufAddr (s : State) : s.accError.bufAddr = s.bufAddr := rfl
@[simp] theorem accError_res (s : State) : s.accError.res = s.res := rfl
@[simp] theorem accError_errInfo (s : State) : s.accError.errInfo = s.errInfo := rfl
@[simp] theorem accError_curCmd (s : State) : s.accError.curCmd = s.curCmd := rfl
@[simp] theorem accError_mem (s : State) : s.accError.mem = s.mem := rfl
@[simp] theorem accError_inputs (s : State) : s.accError.inputs = s.inputs := rfl
@[simp] theorem accError_wait (s : State) : s.accError.wait = s.wait := rfl
@[simp] theorem accError_draws (s : State) : s.accError.draws = s.draws := rfl
@[simp] theorem accError_readData (s : State) : s.accError.readData = s.readData := rfl

/-! ### returns -/

@[simp] theorem returns_ctrl (s : State) (v : Word) : (s.returns v).ctrl = s.ctrl := rfl
@[simp] theorem returns_status (s : State) (v : Word) : (s.returns v).status = s.status := rfl
@[simp] theorem returns_arg0 (s : State) (v : Word) : (s.returns v).arg0 = s.arg0 := rfl
@[simp] theorem returns_arg1 (s : State) (v : Word) : (s.returns v).arg1 = s.arg1 := rfl
@[simp] theorem returns_arg2 (s : State) (v : Word) : (s.returns v).arg2 = s.arg2 := rfl
@[simp] theorem returns_bufSize (s : State) (v : Word) : (s.returns v).bufSize = s.bufSize := rfl
@[simp] theorem returns_crcState (s : State) (v : Word) : (s.returns v).crcState = s.crcState := rfl
@[simp] theorem returns_adlerValue (s : State) (v : Word) : (s.returns v).adlerValue = s.adlerValue := rfl
@[simp] theorem returns_bufAddr (s : State) (v : Word) : (s.returns v).bufAddr = s.bufAddr := rfl
@[simp] theorem returns_res (s : State) (v : Word) : (s.returns v).res = s.res := rfl
@[simp] theorem returns_errInfo (s : State) (v : Word) : (s.returns v).errInfo = s.errInfo := rfl
@[simp] theorem returns_curCmd (s : State) (v : Word) : (s.returns v).curCmd = s.curCmd := rfl
@[simp] theorem returns_mem (s : State) (v : Word) : (s.returns v).mem = s.mem := rfl
@[simp] theorem returns_inputs (s : State) (v : Word) : (s.returns v).inputs = s.inputs := rfl
@[simp] theorem returns_wait (s : State) (v : Word) : (s.returns v).wait = s.wait := rfl
@[simp] theorem returns_draws (s : State) (v : Word) : (s.returns v).draws = s.draws := rfl
@[simp] theorem returns_readData (s : State) (v : Word) : (s.returns v).readData = v := rfl

/-! ### setFound -/

@[simp] theorem setFound_ctrl (s : State) (b : Bool) : (s.setFound b).ctrl = s.ctrl := rfl
@[simp] theorem setFound_status (s : State) (b : Bool) : (s.setFound b).status = { s.status with found := b } := rfl
@[simp] theorem setFound_arg0 (s : State) (b : Bool) : (s.setFound b).arg0 = s.arg0 := rfl
@[simp] theorem setFound_arg1 (s : State) (b : Bool) : (s.setFound b).arg1 = s.arg1 := rfl
@[simp] theorem setFound_arg2 (s : State) (b : Bool) : (s.setFound b).arg2 = s.arg2 := rfl
@[simp] theorem setFound_bufSize (s : State) (b : Bool) : (s.setFound b).bufSize = s.bufSize := rfl
@[simp] theorem setFound_crcState (s : State) (b : Bool) : (s.setFound b).crcState = s.crcState := rfl
@[simp] theorem setFound_adlerValue (s : State) (b : Bool) : (s.setFound b).adlerValue = s.adlerValue := rfl
@[simp] theorem setFound_bufAddr (s : State) (b : Bool) : (s.setFound b).bufAddr = s.bufAddr := rfl
@[simp] theorem setFound_res (s : State) (b : Bool) : (s.setFound b).res = s.res := rfl
@[simp] theorem setFound_errInfo (s : State) (b : Bool) : (s.setFound b).errInfo = s.errInfo := rfl
@[simp] theorem setFound_curCmd (s : State) (b : Bool) : (s.setFound b).curCmd = s.curCmd := rfl
@[simp] theorem setFound_mem (s : State) (b : Bool) : (s.setFound b).mem = s.mem := rfl
@[simp] theorem setFound_inputs (s : State) (b : Bool) : (s.setFound b).inputs = s.inputs := rfl
@[simp] theorem setFound_wait (s : State) (b : Bool) : (s.setFound b).wait = s.wait := rfl
@[simp] theorem setFound_draws (s : State) (b : Bool) : (s.setFound b).draws = s.draws := rfl
@[simp] theorem setFound_readData (s : State) (b : Bool) : (s.setFound b).readData = s.readData := rfl

/-! ### clearResults -/

@[simp] theorem clearResults_ctrl (s : State) : (clearResults s).ctrl = s.ctrl := rfl
@[simp] theorem clearResults_status (s : State) : (clearResults s).status = s.status := rfl
@[simp] theorem clearResults_arg0 (s : State) : (clearResults s).arg0 = s.arg0 := rfl
@[simp] theorem clearResults_arg1 (s : State) : (clearResults s).arg1 = s.arg1 := rfl
@[simp] theorem clearResults_arg2 (s : State) : (clearResults s).arg2 = s.arg2 := rfl
@[simp] theorem clearResults_bufSize (s : State) : (clearResults s).bufSize = s.bufSize := rfl
@[simp] theorem clearResults_crcState (s : State) : (clearResults s).crcState = s.crcState := rfl
@[simp] theorem clearResults_adlerValue (s : State) : (clearResults s).adlerValue = s.adlerValue := rfl
@[simp] theorem clearResults_bufAddr (s : State) : (clearResults s).bufAddr = s.bufAddr := rfl
@[simp] theorem clearResults_res (s : State) : (clearResults s).res = {} := rfl
@[simp] theorem clearResults_errInfo (s : State) : (clearResults s).errInfo = s.errInfo := rfl
@[simp] theorem clearResults_curCmd (s : State) : (clearResults s).curCmd = s.curCmd := rfl
@[simp] theorem clearResults_mem (s : State) : (clearResults s).mem = s.mem := rfl
@[simp] theorem clearResults_inputs (s : State) : (clearResults s).inputs = s.inputs := rfl
@[simp] theorem clearResults_wait (s : State) : (clearResults s).wait = s.wait := rfl
@[simp] theorem clearResults_draws (s : State) : (clearResults s).draws = s.draws := rfl
@[simp] theorem clearResults_readData (s : State) : (clearResults s).readData = s.readData := rfl

/-! ### reportRecord -/

@[simp] theorem reportRecord_ctrl (s : State) (p n : Nat) (tag c : Word) : (reportRecord p n tag c s).ctrl = s.ctrl := rfl
@[simp] theorem reportRecord_status (s : State) (p n : Nat) (tag c : Word) : (reportRecord p n tag c s).status = s.status := rfl
@[simp] theorem reportRecord_arg0 (s : State) (p n : Nat) (tag c : Word) : (reportRecord p n tag c s).arg0 = s.arg0 := rfl
@[simp] theorem reportRecord_arg1 (s : State) (p n : Nat) (tag c : Word) : (reportRecord p n tag c s).arg1 = s.arg1 := rfl
@[simp] theorem reportRecord_arg2 (s : State) (p n : Nat) (tag c : Word) : (reportRecord p n tag c s).arg2 = s.arg2 := rfl
@[simp] theorem reportRecord_bufSize (s : State) (p n : Nat) (tag c : Word) : (reportRecord p n tag c s).bufSize = s.bufSize := rfl
@[simp] theorem reportRecord_crcState (s : State) (p n : Nat) (tag c : Word) : (reportRecord p n tag c s).crcState = s.crcState := rfl
@[simp] theorem reportRecord_adlerValue (s : State) (p n : Nat) (tag c : Word) : (reportRecord p n tag c s).adlerValue = s.adlerValue := rfl
@[simp] theorem reportRecord_bufAddr (s : State) (p n : Nat) (tag c : Word) : (reportRecord p n tag c s).bufAddr = s.bufAddr := rfl
@[simp] theorem reportRecord_res (s : State) (p n : Nat) (tag c : Word) : (reportRecord p n tag c s).res = { len := BitVec.ofNat 32 n, tag := tag, data := BitVec.ofNat 32 (p + 8), next := BitVec.ofNat 32 (p + 12 + n), crc := c, count := s.res.count } := rfl
@[simp] theorem reportRecord_errInfo (s : State) (p n : Nat) (tag c : Word) : (reportRecord p n tag c s).errInfo = s.errInfo := rfl
@[simp] theorem reportRecord_curCmd (s : State) (p n : Nat) (tag c : Word) : (reportRecord p n tag c s).curCmd = s.curCmd := rfl
@[simp] theorem reportRecord_mem (s : State) (p n : Nat) (tag c : Word) : (reportRecord p n tag c s).mem = s.mem := rfl
@[simp] theorem reportRecord_inputs (s : State) (p n : Nat) (tag c : Word) : (reportRecord p n tag c s).inputs = s.inputs := rfl
@[simp] theorem reportRecord_wait (s : State) (p n : Nat) (tag c : Word) : (reportRecord p n tag c s).wait = s.wait := rfl
@[simp] theorem reportRecord_draws (s : State) (p n : Nat) (tag c : Word) : (reportRecord p n tag c s).draws = s.draws := rfl
@[simp] theorem reportRecord_readData (s : State) (p n : Nat) (tag c : Word) : (reportRecord p n tag c s).readData = s.readData := rfl

/-! ### countRecord -/

@[simp] theorem countRecord_ctrl (s : State) : (countRecord s).ctrl = s.ctrl := rfl
@[simp] theorem countRecord_status (s : State) : (countRecord s).status = s.status := rfl
@[simp] theorem countRecord_arg0 (s : State) : (countRecord s).arg0 = s.arg0 := rfl
@[simp] theorem countRecord_arg1 (s : State) : (countRecord s).arg1 = s.arg1 := rfl
@[simp] theorem countRecord_arg2 (s : State) : (countRecord s).arg2 = s.arg2 := rfl
@[simp] theorem countRecord_bufSize (s : State) : (countRecord s).bufSize = s.bufSize := rfl
@[simp] theorem countRecord_crcState (s : State) : (countRecord s).crcState = s.crcState := rfl
@[simp] theorem countRecord_adlerValue (s : State) : (countRecord s).adlerValue = s.adlerValue := rfl
@[simp] theorem countRecord_bufAddr (s : State) : (countRecord s).bufAddr = s.bufAddr := rfl
@[simp] theorem countRecord_res (s : State) : (countRecord s).res = { s.res with count := s.res.count + 1#32 } := rfl
@[simp] theorem countRecord_errInfo (s : State) : (countRecord s).errInfo = s.errInfo := rfl
@[simp] theorem countRecord_curCmd (s : State) : (countRecord s).curCmd = s.curCmd := rfl
@[simp] theorem countRecord_mem (s : State) : (countRecord s).mem = s.mem := rfl
@[simp] theorem countRecord_inputs (s : State) : (countRecord s).inputs = s.inputs := rfl
@[simp] theorem countRecord_wait (s : State) : (countRecord s).wait = s.wait := rfl
@[simp] theorem countRecord_draws (s : State) : (countRecord s).draws = s.draws := rfl
@[simp] theorem countRecord_readData (s : State) : (countRecord s).readData = s.readData := rfl

/-! ### accepting -/

@[simp] theorem accepting_ctrl (s : State) (rest : List HostEvent) : (s.accepting rest).ctrl = s.ctrl := rfl
@[simp] theorem accepting_status (s : State) (rest : List HostEvent) : (s.accepting rest).status = s.status := rfl
@[simp] theorem accepting_arg0 (s : State) (rest : List HostEvent) : (s.accepting rest).arg0 = s.arg0 := rfl
@[simp] theorem accepting_arg1 (s : State) (rest : List HostEvent) : (s.accepting rest).arg1 = s.arg1 := rfl
@[simp] theorem accepting_arg2 (s : State) (rest : List HostEvent) : (s.accepting rest).arg2 = s.arg2 := rfl
@[simp] theorem accepting_bufSize (s : State) (rest : List HostEvent) : (s.accepting rest).bufSize = s.bufSize := rfl
@[simp] theorem accepting_crcState (s : State) (rest : List HostEvent) : (s.accepting rest).crcState = s.crcState := rfl
@[simp] theorem accepting_adlerValue (s : State) (rest : List HostEvent) : (s.accepting rest).adlerValue = s.adlerValue := rfl
@[simp] theorem accepting_bufAddr (s : State) (rest : List HostEvent) : (s.accepting rest).bufAddr = s.bufAddr := rfl
@[simp] theorem accepting_res (s : State) (rest : List HostEvent) : (s.accepting rest).res = s.res := rfl
@[simp] theorem accepting_errInfo (s : State) (rest : List HostEvent) : (s.accepting rest).errInfo = s.errInfo := rfl
@[simp] theorem accepting_curCmd (s : State) (rest : List HostEvent) : (s.accepting rest).curCmd = s.curCmd := rfl
@[simp] theorem accepting_mem (s : State) (rest : List HostEvent) : (s.accepting rest).mem = s.mem := rfl
@[simp] theorem accepting_inputs (s : State) (rest : List HostEvent) : (s.accepting rest).inputs = rest := rfl
@[simp] theorem accepting_wait (s : State) (rest : List HostEvent) : (s.accepting rest).wait = s.wait - 1 := rfl
@[simp] theorem accepting_draws (s : State) (rest : List HostEvent) : (s.accepting rest).draws = s.draws := rfl
@[simp] theorem accepting_readData (s : State) (rest : List HostEvent) : (s.accepting rest).readData = s.readData := rfl

/-! ### abort -/

@[simp] theorem abort_ctrl (s : State) : (abort s).ctrl = s.ctrl := rfl
@[simp] theorem abort_status (s : State) : (abort s).status = s.status := rfl
@[simp] theorem abort_arg0 (s : State) : (abort s).arg0 = s.arg0 := rfl
@[simp] theorem abort_arg1 (s : State) : (abort s).arg1 = s.arg1 := rfl
@[simp] theorem abort_arg2 (s : State) : (abort s).arg2 = s.arg2 := rfl
@[simp] theorem abort_bufSize (s : State) : (abort s).bufSize = s.bufSize := rfl
@[simp] theorem abort_crcState (s : State) : (abort s).crcState = s.crcState := rfl
@[simp] theorem abort_adlerValue (s : State) : (abort s).adlerValue = s.adlerValue := rfl
@[simp] theorem abort_bufAddr (s : State) : (abort s).bufAddr = s.bufAddr := rfl
@[simp] theorem abort_res (s : State) : (abort s).res = s.res := rfl
@[simp] theorem abort_errInfo (s : State) : (abort s).errInfo = s.errInfo := rfl
@[simp] theorem abort_curCmd (s : State) : (abort s).curCmd = s.curCmd := rfl
@[simp] theorem abort_mem (s : State) : (abort s).mem = forgetSpans s.mem (writeSet s) := rfl
@[simp] theorem abort_inputs (s : State) : (abort s).inputs = s.inputs := rfl
@[simp] theorem abort_wait (s : State) : (abort s).wait = s.wait := rfl
@[simp] theorem abort_draws (s : State) : (abort s).draws = s.draws := rfl
@[simp] theorem abort_readData (s : State) : (abort s).readData = s.readData := rfl

/-! ### registersReset -/

@[simp] theorem registersReset_ctrl (s : State) : (registersReset s).ctrl = {} := rfl
@[simp] theorem registersReset_status (s : State) : (registersReset s).status = {} := rfl
@[simp] theorem registersReset_arg0 (s : State) : (registersReset s).arg0 = 0#32 := rfl
@[simp] theorem registersReset_arg1 (s : State) : (registersReset s).arg1 = 0#32 := rfl
@[simp] theorem registersReset_arg2 (s : State) : (registersReset s).arg2 = 0#32 := rfl
@[simp] theorem registersReset_bufSize (s : State) : (registersReset s).bufSize = s.bufSize := rfl
@[simp] theorem registersReset_crcState (s : State) : (registersReset s).crcState = 0xFFFFFFFF#32 := rfl
@[simp] theorem registersReset_adlerValue (s : State) : (registersReset s).adlerValue = 1#32 := rfl
@[simp] theorem registersReset_bufAddr (s : State) : (registersReset s).bufAddr = 0#32 := rfl
@[simp] theorem registersReset_res (s : State) : (registersReset s).res = {} := rfl
@[simp] theorem registersReset_errInfo (s : State) : (registersReset s).errInfo = 0#32 := rfl
@[simp] theorem registersReset_curCmd (s : State) : (registersReset s).curCmd = Config.freeWord s.draws := rfl
@[simp] theorem registersReset_mem (s : State) : (registersReset s).mem = s.mem := rfl
@[simp] theorem registersReset_inputs (s : State) : (registersReset s).inputs = s.inputs := rfl
@[simp] theorem registersReset_wait (s : State) : (registersReset s).wait = 0 := rfl
@[simp] theorem registersReset_draws (s : State) : (registersReset s).draws = s.draws + 1 := rfl
@[simp] theorem registersReset_readData (s : State) : (registersReset s).readData = s.readData := rfl

/-! ### the sizes and operands that updates leave alone -/

@[simp] theorem nextDraw_bufBytes (s : State) : s.nextDraw.bufBytes = s.bufBytes := rfl
@[simp] theorem memWrite_bufBytes (s : State) (a : Nat) (bs : List Byte) : (s.memWrite a bs).bufBytes = s.bufBytes := rfl
@[simp] theorem putBE32_bufBytes (s : State) (a : Nat) (v : Word) : (s.putBE32 a v).bufBytes = s.bufBytes := rfl
@[simp] theorem clearResults_bufBytes (s : State) : (clearResults s).bufBytes = s.bufBytes := rfl
@[simp] theorem clearResults_argAddr (s : State) : (clearResults s).argAddr = s.argAddr := rfl
@[simp] theorem clearResults_argLen (s : State) : (clearResults s).argLen = s.argLen := rfl
@[simp] theorem clearResults_argTag (s : State) : (clearResults s).argTag = s.argTag := rfl
@[simp] theorem reportRecord_bufBytes (p n : Nat) (tag c : Word) (s : State) :
    (reportRecord p n tag c s).bufBytes = s.bufBytes := rfl
@[simp] theorem countRecord_bufBytes (s : State) : (countRecord s).bufBytes = s.bufBytes := rfl
@[simp] theorem inRange_iff (s : State) (a n : Nat) : s.inRange a n = true ↔ a + n ≤ s.bufBytes := by
  simp [State.inRange]

end Sys2Proof.Machine
end

