-- ==== Sys2Proof/Laws/Ops.lean ====
section
/-! SUPPORT. Once for each shared operation, everything it can do. -/

namespace Sys2Proof.Machine

/-! ### Reading the buffer -/

/-- A written byte is read as it was written. -/
theorem peek_of_lookup (s : State) {a : Nat} {x : Byte} (h : s.mem.lookup a = some x) : s.peek a = x := by
  simp [State.peek, h]

/-- What a read returns is the byte written there, or nothing was. -/
theorem peek_cases (s : State) (a : Nat) : s.mem.lookup a = some (s.peek a) ∨ s.mem.lookup a = none := by
  cases h : s.mem.lookup a with
  | none => exact .inr rfl
  | some x => exact .inl (by rw [peek_of_lookup s h])

@[simp] theorem length_memRead (s : State) (a n : Nat) : (s.memRead a n).length = n := by
  simp [State.memRead]

/-- A read sees the buffer and the number of the draw, nothing else. -/
theorem memRead_congr {s t : State} (hm : s.mem = t.mem) (hd : s.draws = t.draws) (a n : Nat) :
    s.memRead a n = t.memRead a n := by
  simp only [State.memRead, List.map_inj_left, State.peek, hm, hd]
  exact fun _ _ => trivial

theorem getElem?_memRead (s : State) (a n i : Nat) (h : i < n) : (s.memRead a n)[i]? = some (s.peek (a + i)) := by
  simp [State.memRead, h]

/-- Every byte of a read is the one written there, or any where none was (20_memory.md R90). -/
theorem admits_memRead (s : State) (a n : Nat) : s.mem.admits a (s.memRead a n) = true := by
  refine (Memory.admits_iff _ _ _).2 fun i x hi => ?_
  have hlt := (List.getElem?_eq_some_iff.1 hi).1
  rw [length_memRead] at hlt
  rw [getElem?_memRead s a n i hlt] at hi
  cases hi
  exact peek_cases s (a + i)

/-- Bytes that were written are read as they were written. -/
theorem memRead_of_holds (s : State) (a n : Nat) (bs : List Byte) (hn : bs.length = n)
    (h : s.mem.holds a bs = true) : s.memRead a n = bs := by
  subst hn
  refine List.ext_getElem? fun i => ?_
  by_cases hi : i < bs.length
  · rw [getElem?_memRead s a _ i hi, peek_of_lookup s ((Memory.holds_iff _ _ _).1 h i bs[i] (by simp [hi]))]
    simp [hi]
  · simp [hi]

/-- A big-endian word that was written, by its bytes. -/
theorem readBE32_of_holds (s : State) (a : Nat) (b3 b2 b1 b0 : Byte)
    (h : s.mem.holds a [b3, b2, b1, b0] = true) : s.readBE32 a = b3 ++ b2 ++ b1 ++ b0 := by
  have hh := (Memory.holds_iff _ _ _).1 h
  have h0 := peek_of_lookup s (hh 0 b3 rfl)
  have h1 := peek_of_lookup s (hh 1 b2 rfl)
  have h2 := peek_of_lookup s (hh 2 b1 rfl)
  have h3 := peek_of_lookup s (hh 3 b0 rfl)
  rw [Nat.add_zero] at h0
  rw [State.readBE32, h0, h1, h2, h3, packBE_eq_append]

/-- BE32 reads back what PutBE32 wrote. -/
theorem readBE32_of_holds_bytesBE (s : State) (a : Nat) (v : Word) (h : s.mem.holds a (bytesBE v) = true) :
    s.readBE32 a = v := by
  rw [readBE32_of_holds s a _ _ _ _ h, append_extract]

/-- A big-endian word, by the four bytes a read returns. -/
theorem readBE32_eq_packBE (s : State) (a : Nat) :
    s.readBE32 a = packBE (s.peek a) (s.peek (a + 1)) (s.peek (a + 2)) (s.peek (a + 3)) := rfl

/-- A big-endian word as it is read: its bytes are those written there, or any where none were (20_memory.md R90). -/
theorem admits_bytesBE_readBE32 (s : State) (a : Nat) : s.mem.admits a (bytesBE (s.readBE32 a)) = true := by
  rw [show bytesBE (s.readBE32 a) = s.memRead a 4 from ?_]
  · exact admits_memRead s a 4
  · rw [readBE32_eq_packBE, bytesBE_packBE]
    simp [State.memRead, List.range']

/-! ### How a body ends -/

/-- The state in which a body ended, whichever way. -/
def Run.last {α : Type} : Run α → State
  | .done _ s => s
  | .raised _ _ s => s

@[simp] theorem last_done {α : Type} (a : α) (s : State) : (Run.done a s).last = s := rfl
@[simp] theorem last_raised {α : Type} (e : ErrorCode) (i : Word) (s : State) :
    (Run.raised e i s : Run α).last = s := rfl
@[simp] theorem andThen_done {α β : Type} (a : α) (s : State) (f : α → State → Run β) :
    (Run.done a s).andThen f = f a s := rfl
@[simp] theorem andThen_raised {α β : Type} (e : ErrorCode) (i : Word) (s : State) (f : α → State → Run β) :
    (Run.raised e i s : Run α).andThen f = .raised e i s := rfl
@[simp] theorem finish_done (s : State) :
    (Run.done () s).finish = { s with status := s.status.succeeded } := rfl
@[simp] theorem finish_raised (e : ErrorCode) (i : Word) (s : State) :
    (Run.raised e i s : Run Unit).finish = { s with status := s.status.failed e, errInfo := i } := rfl

/-- A completion changes STATUS and ERR_INFO alone, from the state in which the body ended. -/
theorem finish_frame (r : Run Unit) :
    ∃ t i, r.finish = { r.last with status := t, errInfo := i }
      ∧ t.busy = false ∧ t.done = true ∧ t.found = r.last.status.found ∧ t.accErr = r.last.status.accErr := by
  cases r with
  | done a s => exact ⟨_, s.errInfo, rfl, rfl, rfl, rfl, rfl⟩
  | raised e i s => exact ⟨_, i, rfl, rfl, rfl, rfl, rfl⟩

/-! ### The host's guarded accesses -/

theorem guardedRead_idle (f : State → State) (s : State) (h : s.status.busy = false) :
    guardedRead f s = .next (f s) := by simp [guardedRead, h]

theorem guardedRead_busy (f : State → State) (s : State) (h : s.status.busy = true) :
    guardedRead f s = .next ((s.returns 0#32).accError) := by simp [guardedRead, h]

theorem guardedWrite_idle (f : State → State) (s : State) (h : s.status.busy = false) :
    guardedWrite f s = .next (f s) := by simp [guardedWrite, h]

theorem guardedWrite_busy (f : State → State) (s : State) (h : s.status.busy = true) :
    guardedWrite f s = .next s.accError := by simp [guardedWrite, h]

theorem guardedRead_cases (f : State → State) (s : State) :
    ∃ t, guardedRead f s = .next t ∧ (t = f s ∨ t = (s.returns 0#32).accError) := by
  unfold guardedRead
  split
  · exact ⟨_, rfl, .inr rfl⟩
  · exact ⟨_, rfl, .inl rfl⟩

theorem guardedWrite_cases (f : State → State) (s : State) :
    ∃ t, guardedWrite f s = .next t ∧ (t = f s ∨ t = s.accError) := by
  unfold guardedWrite
  split
  · exact ⟨_, rfl, .inr rfl⟩
  · exact ⟨_, rfl, .inl rfl⟩

/-! ### The window -/

theorem windowRead_inside (n : Nat) (s : State) (h : s.bufAddr.toNat + n ≤ s.bufBytes) :
    windowRead n s = { s with
      readData := packLE (s.memRead s.bufAddr.toNat n), draws := s.draws + 1
      bufAddr := s.bufAddr + BitVec.ofNat 32 n } := by
  simp only [windowRead, if_pos ((inRange_iff _ _ _).2 h)]
  rfl

theorem windowRead_outside (n : Nat) (s : State) (h : s.bufBytes < s.bufAddr.toNat + n) :
    windowRead n s = (s.returns 0#32).accError := by
  rw [windowRead, if_neg]
  rw [inRange_iff]
  omega

theorem windowWrite_inside (bs : List Byte) (s : State) (h : s.bufAddr.toNat + bs.length ≤ s.bufBytes) :
    windowWrite bs s = { s with
      mem := s.mem.write s.bufAddr.toNat bs, bufAddr := s.bufAddr + BitVec.ofNat 32 bs.length } := by
  simp only [windowWrite, if_pos ((inRange_iff _ _ _).2 h)]
  rfl

theorem windowWrite_outside (bs : List Byte) (s : State) (h : s.bufBytes < s.bufAddr.toNat + bs.length) :
    windowWrite bs s = s.accError := by
  rw [windowWrite, if_neg]
  rw [inRange_iff]
  omega

/-! ### The bodies of the accumulator commands -/

theorem crcBufBody_inside (init : Bool) (s : State) (h : s.argAddr + s.argLen ≤ s.bufBytes) :
    crcBufBody init s = .done () { s with
      draws := s.draws + 1
      crcState := crcUpdate (if init then 0xFFFFFFFF#32 else s.crcState) (s.memRead s.argAddr s.argLen) } := by
  rw [crcBufBody, if_pos ((inRange_iff _ _ _).2 h)]
  rfl

theorem crcBufBody_outside (init : Bool) (s : State) (h : s.bufBytes < s.argAddr + s.argLen) :
    crcBufBody init s = .raised .range s.arg0 s := by
  rw [crcBufBody, if_neg]
  rw [inRange_iff]
  omega

theorem adlerBufBody_inside (init : Bool) (s : State) (h : s.argAddr + s.argLen ≤ s.bufBytes) :
    adlerBufBody init s = .done () { s with
      draws := s.draws + 1
      adlerValue := adlerUpdate (if init then 0x00000001#32 else s.adlerValue) (s.memRead s.argAddr s.argLen) } := by
  rw [adlerBufBody, if_pos ((inRange_iff _ _ _).2 h)]
  rfl

theorem adlerBufBody_outside (init : Bool) (s : State) (h : s.bufBytes < s.argAddr + s.argLen) :
    adlerBufBody init s = .raised .range s.arg0 s := by
  rw [adlerBufBody, if_neg]
  rw [inRange_iff]
  omega

theorem storeTrailer_inside (v : Word) (s : State) (h : s.argAddr + 4 ≤ s.bufBytes) :
    storeTrailer v s = .done () (s.putBE32 s.argAddr v) := by
  rw [storeTrailer, if_pos ((inRange_iff _ _ _).2 h)]

theorem storeTrailer_outside (v : Word) (s : State) (h : s.bufBytes < s.argAddr + 4) :
    storeTrailer v s = .raised .range s.arg0 s := by
  rw [storeTrailer, if_neg]
  rw [inRange_iff]
  omega

theorem checkTrailer_inside (v : Word) (s : State) (h : s.argAddr + 4 ≤ s.bufBytes) :
    checkTrailer v s = if s.readBE32 s.argAddr = v then .done () s.nextDraw
      else .raised .invalidChecksum s.arg0 s.nextDraw := by
  rw [checkTrailer, if_pos ((inRange_iff _ _ _).2 h)]

theorem checkTrailer_outside (v : Word) (s : State) (h : s.bufBytes < s.argAddr + 4) :
    checkTrailer v s = .raised .range s.arg0 s := by
  rw [checkTrailer, if_neg]
  rw [inRange_iff]
  omega

/-! ### Folding: an update by parts is the update by the whole -/

@[simp] theorem crcUpdate_nil (v : Word) : crcUpdate v [] = v := rfl
@[simp] theorem crcUpdate_cons (v : Word) (x : Byte) (d : List Byte) :
    crcUpdate v (x :: d) = crcUpdate (crcByte v x) d := rfl
theorem crcUpdate_append (v : Word) (d e : List Byte) : crcUpdate v (d ++ e) = crcUpdate (crcUpdate v d) e :=
  List.foldl_append
@[simp] theorem adlerUpdate_nil (v : Word) : adlerUpdate v [] = v := rfl
@[simp] theorem adlerUpdate_cons (v : Word) (x : Byte) (d : List Byte) :
    adlerUpdate v (x :: d) = adlerUpdate (adlerByte v x) d := rfl
theorem adlerUpdate_append (v : Word) (d e : List Byte) :
    adlerUpdate v (d ++ e) = adlerUpdate (adlerUpdate v d) e := List.foldl_append

/-- The exposed value is the complement of the state. -/
theorem crcExposed_eq_not (v : Word) : crcExposed v = ~~~v := by
  rw [crcExposed, show (0xFFFFFFFF#32 : Word) = BitVec.allOnes 32 from rfl, BitVec.xor_allOnes]

/-! ### Sizes of records -/

@[simp] theorem length_recBytes (r : Rec) : r.bytes.length = r.size := by
  simp only [Rec.bytes, Rec.size, List.length_append, length_bytesBE]
  omega

@[simp] theorem recordBytes_nil : recordBytes [] = [] := rfl
@[simp] theorem recordBytes_cons (r : Rec) (rs : List Rec) :
    recordBytes (r :: rs) = r.bytes ++ recordBytes rs := rfl
@[simp] theorem recordSize_nil : recordSize [] = 0 := rfl
@[simp] theorem recordSize_cons (r : Rec) (rs : List Rec) : recordSize (r :: rs) = r.size + recordSize rs := by
  simp [recordSize]

@[simp] theorem length_recordBytes (rs : List Rec) : (recordBytes rs).length = recordSize rs := by
  induction rs with
  | nil => rfl
  | cons r rs ih => simp [ih]

/-! ### CheckRecord -/

/-- The state of CheckRecord after its reads and its report, the record not counted. -/
theorem reported_eq (p n : Nat) (tag c : Word) (s : State) :
    (reportRecord p n tag c s.nextDraw.nextDraw.nextDraw).nextDraw = { s with
      res := { len := BitVec.ofNat 32 n, tag := tag, data := BitVec.ofNat 32 (p + 8),
               next := BitVec.ofNat 32 (p + 12 + n), crc := c, count := s.res.count }
      draws := s.draws + 4 } := by
  simp only [reportRecord, State.nextDraw]

/-- The same, the record counted. -/
theorem counted_eq (p n : Nat) (tag c : Word) (s : State) :
    countRecord (reportRecord p n tag c s.nextDraw.nextDraw.nextDraw).nextDraw = { s with
      res := { len := BitVec.ofNat 32 n, tag := tag, data := BitVec.ofNat 32 (p + 8),
               next := BitVec.ofNat 32 (p + 12 + n), crc := c, count := s.res.count + 1#32 }
      draws := s.draws + 4 } := by
  simp only [countRecord, reportRecord, State.nextDraw]

/-- Everything CheckRecord can do (42_framing.md R196): it raises before it touches the result registers; or it raises
INVALID_CHECKSUM with them describing the record; or it ends, the record counted. Nothing else of the state changes. -/
theorem checkRecord_cases (p stop : Nat) (s : State) :
    (∃ e n, (e = .truncated ∨ e = .badLength)
      ∧ checkRecord p stop s = .raised e (BitVec.ofNat 32 p) { s with draws := n })
    ∨ (∃ r n, checkRecord p stop s = .raised .invalidChecksum (BitVec.ofNat 32 p) { s with res := r, draws := n }
      ∧ r.count = s.res.count ∧ r.len.toNat ≤ 0x7FFFFFFF ∧ p + 12 ≤ stop)
    ∨ (∃ len tag r n, checkRecord p stop s = .done (len, tag) { s with res := r, draws := n }
      ∧ r.count = s.res.count + 1#32 ∧ r.len.toNat ≤ 0x7FFFFFFF ∧ p + 12 + len ≤ stop) := by
  unfold checkRecord
  dsimp only
  split
  · exact .inl ⟨.truncated, s.draws, .inl rfl, rfl⟩
  · split
    · exact .inl ⟨.badLength, _, .inr rfl, rfl⟩
    · split
      · exact .inl ⟨.truncated, _, .inl rfl, rfl⟩
      · rename_i h1 h2 h3
        have hlen : (BitVec.ofNat 32 (s.readBE32 p).toNat).toNat ≤ 0x7FFFFFFF := by
          simp only [BitVec.ofNat_toNat, BitVec.setWidth_eq]
          exact Nat.le_of_not_lt h2
        rw [counted_eq, reported_eq]
        split
        · exact .inr (.inr ⟨_, _, _, _, rfl, rfl, hlen, by omega⟩)
        · exact .inr (.inl ⟨_, _, rfl, rfl, hlen, by omega⟩)

/-- A record held at `p`, CRC field `c` (42_framing.md R190): what its four parts read as. -/
theorem holds_record_parts (m : Memory) (p : Nat) (len tag c : Word) (data : List Byte)
    (h : m.holds p (bytesBE len ++ (bytesBE tag ++ (data ++ bytesBE c))) = true) :
    m.holds p (bytesBE len) = true ∧ m.holds (p + 4) (bytesBE tag) = true
      ∧ m.holds (p + 4) (bytesBE tag ++ data) = true ∧ m.holds (p + 8) data = true
      ∧ m.holds (p + 8 + data.length) (bytesBE c) = true := by
  simp only [Memory.holds_append, Bool.and_eq_true, length_bytesBE, Nat.add_assoc, Nat.reduceAdd] at h ⊢
  tauto

/-- CheckRecord on a held record that fits (42_framing.md R196): it ends with the record described and counted where the
CRC field is the CRC of tag and data, and raises INVALID_CHECKSUM, the record described, where it is not. -/
theorem checkRecord_of_held (p stop : Nat) (s : State) (r : Rec) (c : Word) (hl : r.data.length ≤ 0x7FFFFFFF)
    (hfit : p + r.size ≤ stop)
    (h : s.mem.holds p (bytesBE (BitVec.ofNat 32 r.data.length) ++ (bytesBE r.tag ++ (r.data ++ bytesBE c))) = true) :
    ∃ n, checkRecord p stop s =
      if c = r.crc then
        .done (r.data.length, r.tag) { s with
          res := { r.results p 0 with count := s.res.count + 1#32 }, draws := n }
      else .raised .invalidChecksum (BitVec.ofNat 32 p) { s with
          res := { r.results p 0 with count := s.res.count }, draws := n } := by
  obtain ⟨h1, h2, h3, -, h5⟩ := holds_record_parts _ _ _ _ _ _ h
  simp only [Rec.size] at hfit
  have hn : (s.readBE32 p).toNat = r.data.length := by
    rw [readBE32_of_holds_bytesBE s p _ h1, BitVec.toNat_ofNat, Nat.mod_eq_of_lt (by omega)]
  have htag : s.nextDraw.readBE32 (p + 4) = r.tag := readBE32_of_holds_bytesBE _ _ _ h2
  have hbody : s.nextDraw.nextDraw.memRead (p + 4) (4 + r.data.length) = bytesBE r.tag ++ r.data :=
    memRead_of_holds _ _ _ _ (by simp) h3
  have hstored : ∀ c', (reportRecord p r.data.length r.tag c' s.nextDraw.nextDraw.nextDraw).readBE32
      (p + 8 + r.data.length) = c := fun c' => readBE32_of_holds_bytesBE _ _ _ h5
  refine ⟨s.draws + 4, ?_⟩
  unfold checkRecord
  dsimp only
  rw [if_neg (by omega), hn, if_neg (by simp only [maxLength]; omega), if_neg (by omega), htag, hbody,
    hstored]
  by_cases hc : c = r.crc
  · rw [if_pos hc, if_pos (show crc32 (bytesBE r.tag ++ r.data) = c from hc.symm)]
    rw [counted_eq]
    rfl
  · rw [if_neg hc, if_neg (show ¬ crc32 (bytesBE r.tag ++ r.data) = c from fun e => hc e.symm)]
    rw [reported_eq]
    rfl

/-- CheckRecord with no room for a header (42_framing.md R196). -/
theorem checkRecord_short {p stop : Nat} (s : State) (h : stop < p + 12) :
    checkRecord p stop s = .raised .truncated (BitVec.ofNat 32 p) s := by
  unfold checkRecord
  dsimp only
  rw [if_pos (by omega)]

/-- CheckRecord on a held length field (42_framing.md R196): BAD_LENGTH above the largest length, TRUNCATED for a legal
one that does not fit. -/
theorem checkRecord_of_length {p stop : Nat} (s : State) (b3 b2 b1 b0 : Byte) (h : p + 12 ≤ stop)
    (hh : s.mem.holds p [b3, b2, b1, b0] = true) :
    (0x7FFFFFFF < (b3 ++ b2 ++ b1 ++ b0).toNat →
      checkRecord p stop s = .raised .badLength (BitVec.ofNat 32 p) s.nextDraw)
    ∧ ((b3 ++ b2 ++ b1 ++ b0).toNat ≤ 0x7FFFFFFF → stop < p + 12 + (b3 ++ b2 ++ b1 ++ b0).toNat →
      checkRecord p stop s = .raised .truncated (BitVec.ofNat 32 p) s.nextDraw) := by
  unfold checkRecord
  dsimp only
  rw [if_neg (by omega), readBE32_of_holds s p _ _ _ _ hh]
  refine ⟨fun hbig => by rw [if_pos (show _ > maxLength from hbig)], fun hok hlong => ?_⟩
  rw [if_neg (by simp only [maxLength]; omega), if_pos (by omega)]

/-- Everything CheckRecord does with room for a header, by what it reads, written or not (42_framing.md R196). -/
theorem checkRecord_reads {p stop : Nat} (s : State) (h : p + 12 ≤ stop) :
    ∃ q : RecordRead, q.Admitted s.mem p
      ∧ (0x7FFFFFFF < q.len.toNat → checkRecord p stop s = .raised .badLength (BitVec.ofNat 32 p) s.nextDraw)
      ∧ (q.len.toNat ≤ 0x7FFFFFFF → stop < p + q.size →
        checkRecord p stop s = .raised .truncated (BitVec.ofNat 32 p) s.nextDraw)
      ∧ (q.len.toNat ≤ 0x7FFFFFFF → p + q.size ≤ stop → crc32 q.body ≠ q.stored →
        checkRecord p stop s = .raised .invalidChecksum (BitVec.ofNat 32 p) { s with
          res := { q.results p 0 with count := s.res.count }, draws := s.draws + 4 })
      ∧ (q.Passes p stop →
        checkRecord p stop s = .done (q.len.toNat, q.tag) { s with
          res := { q.results p 0 with count := s.res.count + 1#32 }, draws := s.draws + 4 }) := by
  let len := s.readBE32 p
  let s1 := s.nextDraw
  let body := s1.nextDraw.memRead (p + 4) (4 + len.toNat)
  let stored := s1.nextDraw.nextDraw.readBE32 (p + 8 + len.toNat)
  have hlen : BitVec.ofNat 32 len.toNat = len := by simp
  refine ⟨⟨len, s1.readBE32 (p + 4), body, stored⟩, ⟨?_, ?_, length_memRead _ _ _,
    admits_memRead s1.nextDraw _ _, ?_⟩, ?_⟩
  · exact admits_bytesBE_readBE32 s p
  · exact admits_bytesBE_readBE32 s1 _
  · exact admits_bytesBE_readBE32 s1.nextDraw.nextDraw _
  · unfold checkRecord RecordRead.Passes RecordRead.size
    dsimp only
    rw [if_neg (by omega), counted_eq, reported_eq, hlen]
    refine ⟨fun h1 => if_pos h1, fun h1 h2 => ?_, fun h1 h2 h3 => ?_, fun ⟨h1, h2, h3⟩ => ?_⟩
    · rw [if_neg (show ¬ (s.readBE32 p).toNat > maxLength from Nat.not_lt.2 h1),
        if_pos (show len.toNat > stop - p - 12 by omega)]
    · rw [if_neg (show ¬ (s.readBE32 p).toNat > maxLength from Nat.not_lt.2 h1),
        if_neg (show ¬ len.toNat > stop - p - 12 by omega)]
      refine (if_neg h3).trans ?_
      simp only [RecordRead.results, RecordRead.size, Nat.add_assoc]
      rfl
    · rw [if_neg (show ¬ (s.readBE32 p).toNat > maxLength from Nat.not_lt.2 h1),
        if_neg (show ¬ len.toNat > stop - p - 12 by omega)]
      refine (if_pos h3).trans ?_
      simp only [RecordRead.results, RecordRead.size, Nat.add_assoc]
      rfl

/-! ### Walk -/

/-- Everything a walk can do (42_framing.md R197, R215): it ends or raises, having changed FOUND, the result registers
and the draws alone; a raise leaves FOUND; RES_COUNT grew by at most a twelfth of the region. -/
theorem walk_cases (fuel cursor stop : Nat) (target : Word) (s : State)
    (hc : s.res.count.toNat + (stop - cursor) / 12 < 2 ^ 32) :
    ∃ r n, ((∃ b, walk fuel cursor stop target s = .done () { s with
          res := r, draws := n, status := { s.status with found := b } })
        ∨ (∃ e i, walk fuel cursor stop target s = .raised e i { s with res := r, draws := n } ∧ e ≠ .noError))
      ∧ r.count.toNat ≤ s.res.count.toNat + (stop - cursor) / 12
      ∧ (s.res.len.toNat ≤ 0x7FFFFFFF → r.len.toNat ≤ 0x7FFFFFFF) := by
  induction fuel generalizing cursor s with
  | zero => exact ⟨s.res, s.draws, .inl ⟨false, rfl⟩, by omega, id⟩
  | succ fuel ih =>
    unfold walk
    split
    · rename_i hlt
      rcases checkRecord_cases cursor stop s with ⟨e, n, he, h⟩ | ⟨r, n, h, hcnt, hlen, -⟩ | ⟨len, tag, r, n, h, hcnt, hlen, hfit⟩
      · rw [h, andThen_raised]
        exact ⟨s.res, n, .inr ⟨e, _, rfl, by rcases he with rfl | rfl <;> decide⟩, by omega, id⟩
      · rw [h, andThen_raised]
        exact ⟨r, n, .inr ⟨_, _, rfl, by decide⟩, by rw [hcnt]; omega, fun _ => hlen⟩
      · rw [h, andThen_done]
        have hone : r.count.toNat = s.res.count.toNat + 1 := by
          rw [hcnt, BitVec.toNat_add, BitVec.toNat_ofNat]
          exact Nat.mod_eq_of_lt (by omega)
        split
        · exact ⟨r, n, .inl ⟨true, rfl⟩, by omega, fun _ => hlen⟩
        · obtain ⟨r', n', hw, hb, hl⟩ := ih (cursor + 12 + len) { s with res := r, draws := n } (by
            simp only [hone]
            omega)
          refine ⟨r', n', ?_, ?_, fun _ => hl hlen⟩
          · rcases hw with ⟨b, hw⟩ | ⟨e, i, hw, he⟩
            · exact .inl ⟨b, hw⟩
            · exact .inr ⟨e, i, hw, he⟩
          · simp only [hone] at hb
            omega
    · exact ⟨s.res, s.draws, .inl ⟨false, rfl⟩, by omega, id⟩

/-- A walk passes legal records without the target tag (42_framing.md R197): it goes on behind them, the last of them
described, all of them counted, and every round it spends is one record. -/
theorem walk_past (before : List Rec) (fuel cursor stop : Nat) (target : Word) (s : State)
    (hb : ∀ q ∈ before, q.legal = true ∧ q.tag ≠ target) (hf : before.length ≤ fuel)
    (hfit : cursor + recordSize before ≤ stop) (hh : s.mem.holds cursor (recordBytes before) = true) :
    ∃ n, walk fuel cursor stop target s =
      walk (fuel - before.length) (cursor + recordSize before) stop target { s with
        res := if before = [] then s.res else
          { lastResults cursor before with count := s.res.count + BitVec.ofNat 32 before.length }
        draws := n } := by
  induction before generalizing fuel cursor s with
  | nil => exact ⟨s.draws, rfl⟩
  | cons q rs ih =>
    obtain ⟨fuel, rfl⟩ : ∃ k, fuel = k + 1 := ⟨fuel - 1, by simp only [List.length_cons] at hf; omega⟩
    simp only [recordSize_cons, recordBytes_cons, Memory.holds_append, length_recBytes, Bool.and_eq_true,
      List.length_cons] at hfit hh hf
    obtain ⟨hql, hqt⟩ := hb q (by simp)
    obtain ⟨n, hn⟩ := checkRecord_of_held cursor stop s q q.crc (by simpa [Rec.legal] using hql) (by omega) hh.1
    have hsz : cursor + 12 + q.data.length = cursor + q.size := by simp only [Rec.size]; omega
    obtain ⟨n', h'⟩ := ih fuel (cursor + q.size) { s with
        res := { q.results cursor 0 with count := s.res.count + 1#32 }, draws := n }
      (fun x hx => hb x (by simp [hx])) (by omega) (by omega) hh.2
    refine ⟨n', ?_⟩
    rw [walk, if_pos (by simp only [Rec.size] at hfit; omega), hn, if_pos rfl, andThen_done, if_neg hqt]
    simp only [hsz]
    refine h'.trans ?_
    simp only [List.length_cons, recordSize_cons, Nat.add_sub_add_right, Nat.add_assoc]
    cases rs with
    | nil => rfl
    | cons q' rs =>
      simp only [if_neg (List.cons_ne_nil _ _), lastResults, List.getLast?_cons_cons, List.dropLast_cons_cons,
        recordSize_cons, List.getLast?_eq_some_getLast (List.cons_ne_nil q' rs), Rec.results, BitVec.add_assoc,
        Nat.add_assoc, List.length_cons, ← BitVec.ofNat_add]
      simp only [Nat.add_comm, Nat.add_left_comm, Nat.add_assoc]

/-- The result registers after a walk from `c` passed `qs`, `u` having stood there before (42_framing.md R197). -/
def resultsPast (u : Results) (c : Nat) (qs : List RecordRead) : Results :=
  if qs = [] then u else { passedResults c qs with count := u.count + BitVec.ofNat 32 qs.length }

/-- One record passed, and then the rest. -/
theorem resultsPast_cons (u : Results) (c : Nat) (q : RecordRead) (qs : List RecordRead) :
    resultsPast { q.results c 0 with count := u.count + 1#32 } (c + q.size) qs = resultsPast u c (q :: qs) := by
  cases qs with
  | nil => rfl
  | cons q' qs =>
    simp only [resultsPast, if_neg (List.cons_ne_nil _ _), passedResults, List.getLast?_cons_cons, List.dropLast_cons_cons,
      List.map_cons, List.sum_cons, List.getLast?_eq_some_getLast (List.cons_ne_nil q' qs), RecordRead.results,
      BitVec.add_assoc, Nat.add_assoc, List.length_cons, ← BitVec.ofNat_add]
    simp only [Nat.add_comm, Nat.add_left_comm, Nat.add_assoc]

/-- Everything a walk does, by what it reads, written or not (42_framing.md R197): past records without the target tag it
comes to the region's end, to a record that fails its check, or to one that passes and has the target tag. -/
theorem walk_reads (stop : Nat) (target : Word) (fuel cursor : Nat) (s : State) (hc : cursor ≤ stop)
    (hf : stop - cursor ≤ fuel) :
    let raises := fun e p r => ∃ n, walk fuel cursor stop target s =
      .raised e (BitVec.ofNat 32 p) { s with res := r, draws := n }
    let ends := fun b r => ∃ n, walk fuel cursor stop target s = .done () { s with
      res := r, draws := n, status := { s.status with found := b } }
    ∃ qs p, PassesAll s.mem target stop cursor qs p ∧ p ≤ stop
      ∧ (p = stop → ends false (resultsPast s.res cursor qs))
      ∧ (p < stop → stop < p + 12 → raises .truncated p (resultsPast s.res cursor qs))
      ∧ (p + 12 ≤ stop → ∃ q : RecordRead, q.Admitted s.mem p
        ∧ (0x7FFFFFFF < q.len.toNat → raises .badLength p (resultsPast s.res cursor qs))
        ∧ (q.len.toNat ≤ 0x7FFFFFFF → stop < p + q.size → raises .truncated p (resultsPast s.res cursor qs))
        ∧ (q.len.toNat ≤ 0x7FFFFFFF → p + q.size ≤ stop → crc32 q.body ≠ q.stored →
          raises .invalidChecksum p { q.results p 0 with count := (resultsPast s.res cursor qs).count })
        ∧ (q.Passes p stop → q.tag = target
          ∧ ends true { q.results p 0 with count := (resultsPast s.res cursor qs).count + 1#32 })) := by
  dsimp only
  induction fuel generalizing cursor s with
  | zero =>
    have : cursor = stop := by omega
    subst this
    exact ⟨[], _, rfl, le_rfl, fun _ => ⟨_, rfl⟩, fun h => absurd h (lt_irrefl _), fun h => by omega⟩
  | succ fuel ih =>
    by_cases hlt : cursor < stop
    · have hw : walk (fuel + 1) cursor stop target s = (checkRecord cursor stop s).andThen fun hit s' =>
        if hit.2 = target then .done () (s'.setFound true)
        else walk fuel (cursor + 12 + hit.1) stop target s' := by rw [walk, if_pos hlt]
      by_cases h12 : cursor + 12 ≤ stop
      · obtain ⟨q, hq, g1, g2, g3, g4⟩ := checkRecord_reads s h12
        by_cases hp : q.Passes cursor stop ∧ q.tag ≠ target
        · have hsz : cursor + 12 + q.len.toNat = cursor + q.size := by simp only [RecordRead.size]; omega
          have hpos : 12 ≤ q.size := by simp only [RecordRead.size]; omega
          have hfit := hp.1.2.1
          obtain ⟨qs, p, i1, i2, i3, i4, i5⟩ := ih (cursor + q.size) { s with
            res := { q.results cursor 0 with count := s.res.count + 1#32 }, draws := s.draws + 4 } hfit (by omega)
          have he : walk (fuel + 1) cursor stop target s = walk fuel (cursor + q.size) stop target { s with
            res := { q.results cursor 0 with count := s.res.count + 1#32 }, draws := s.draws + 4 } := by
            rw [hw, g4 hp.1, andThen_done, if_neg hp.2, hsz]
          rw [he]
          simp only [resultsPast_cons] at i3 i4 i5
          exact ⟨q :: qs, p, ⟨hq, hp.1, hp.2, i1⟩, i2, i3, i4, i5⟩
        · refine ⟨[], cursor, rfl, hc, fun h => by omega, fun _ h => by omega, fun _ => ⟨q, hq, ?_, ?_, ?_, ?_⟩⟩
          · exact fun a => ⟨_, by rw [hw, g1 a, andThen_raised]; rfl⟩
          · exact fun a b => ⟨_, by rw [hw, g2 a b, andThen_raised]; rfl⟩
          · exact fun a b c => ⟨_, by rw [hw, g3 a b c, andThen_raised]; rfl⟩
          · intro a
            have ht : q.tag = target := by by_contra hh; exact hp ⟨a, hh⟩
            exact ⟨ht, _, by rw [hw, g4 a, andThen_done, if_pos ht]; rfl⟩
      · exact ⟨[], cursor, rfl, hc, fun h => by omega,
          fun _ _ => ⟨s.draws, by rw [hw, checkRecord_short s (by omega)]; rfl⟩, fun h => by omega⟩
    · have : cursor = stop := by omega
      subst this
      exact ⟨[], _, rfl, le_rfl, fun _ => ⟨_, by rw [walk, if_neg hlt]; rfl⟩, fun h => absurd h (lt_irrefl _),
        fun h => by omega⟩

/-- Records passed from cleared result registers (42_framing.md R198). -/
theorem resultsPast_zero (c : Nat) (qs : List RecordRead) : resultsPast {} c qs = passedResults c qs := by
  cases qs with
  | nil => rfl
  | cons q rs =>
    rw [resultsPast, if_neg (List.cons_ne_nil _ _), show ({} : Results).count = 0#32 from rfl, BitVec.zero_add]
    simp only [passedResults]
    rw [List.getLast?_eq_some_getLast (List.cons_ne_nil q rs)]
    rfl
/-- Every record passed is counted (42_framing.md R204). -/
theorem passedResults_count (c : Nat) (qs : List RecordRead) : (passedResults c qs).count = BitVec.ofNat 32 qs.length := by
  cases qs with
  | nil => rfl
  | cons q rs =>
    simp only [passedResults]
    rw [List.getLast?_eq_some_getLast (List.cons_ne_nil q rs)]
    rfl

/-- The rounds of a walk suffice for the records of its region (42_framing.md R215). -/
theorem length_le_recordSize (rs : List Rec) : rs.length ≤ recordSize rs := by
  induction rs with
  | nil => exact Nat.zero_le _
  | cons r rs ih => simp only [List.length_cons, recordSize_cons, Rec.size]; omega

/-! ### Accesses by host address -/

/-- An access of the frame keeps its meaning on the bus, wherever the frame lies (00_scope.md R7). -/
@[simp] theorem inFrame_onBus (a : HostAccess) : a.onBus.inFrame = some a := by
  cases a <;> simp [HostAccess.onBus, BusAccess.inFrame, registerOffset, registerAddress]

@[simp] theorem decodeBus_onBus (a : HostAccess) : decodeBus a.onBus = decodeAccess a := by
  simp [decodeBus]

/-- REG_BASE is 4096-byte aligned (00_scope.md R7). -/
theorem regBase_mod : Config.regBase % 0x1000 = 0 := Nat.mul_mod_right _ _

/-! ### Operations in sequence, and steps in sequence -/

@[simp] theorem execAll_nil (s : State) : execAll [] s = .next s := rfl

theorem execAll_cons {i : Instr} {s t : State} (is : List Instr) (h : exec i s = .next t) :
    execAll (i :: is) s = execAll is t := by
  simp [execAll, h]

theorem execAll_append {is : List Instr} {s t : State} (js : List Instr) (h : execAll is s = .next t) :
    execAll (is ++ js) s = execAll js t := by
  induction is generalizing s with
  | nil =>
    cases h
    rfl
  | cons i is ih =>
    simp only [List.cons_append, execAll] at h ⊢
    cases hi : exec i s with
    | next u =>
      rw [hi] at h
      exact ih h
    | fault f => cases f
    | refused r =>
      rw [hi] at h
      cases h

theorem run_succ {s t : State} (k : Nat) (h : step s = .next t) : core.run (k + 1) s = core.run k t := by
  simp only [Host.Core.run]
  rw [show core.step s = .next t from h]

theorem run_add {s t : State} (j k : Nat) (h : core.run j s = .next t) : core.run (j + k) s = core.run k t := by
  induction j generalizing s with
  | zero =>
    cases h
    rw [Nat.zero_add]
  | succ j ih =>
    rw [Nat.succ_add]
    simp only [Host.Core.run] at h ⊢
    cases hs : core.step s with
    | next u =>
      rw [hs] at h
      exact ih h
    | fault f => cases f
    | refused r =>
      rw [hs] at h
      cases h

end Sys2Proof.Machine
end

