-- ==== Sys2Proof/Laws/Commands.lean ====
section
/-! SUPPORT. What the body of each command may have done when it ends: the frame of all 18, in one structure. -/

namespace Sys2Proof.Machine

/-- The body of a command, what `exec` completes (43_control.md R241). -/
def bodyOf : Instr → State → Run Unit
  | .nop, s => .done () s
  | .crcReset, s => .done () { s with crcState := crcInit }
  | .crcBuf, s => crcBufBody false s
  | .crcBufI, s => crcBufBody true s
  | .crcStore, s => storeTrailer (crcExposed s.crcState) s
  | .crcCheck, s => checkTrailer (crcExposed s.crcState) s
  | .adlerReset, s => .done () { s with adlerValue := adlerInit }
  | .adlerBuf, s => adlerBufBody false s
  | .adlerBufI, s => adlerBufBody true s
  | .adlerStore, s => storeTrailer s.adlerValue s
  | .adlerCheck, s => checkTrailer s.adlerValue s
  | .sigWrite, s => sigWriteBody s
  | .sigCheck, s => sigCheckBody s
  | .chunkBuild, s => chunkBuildBody s
  | .chunkCheck, s => chunkCheckBody s
  | .containerFind, s => containerFindBody s
  | .chunkFind, s => chunkFindBody s
  | .illegal w, s => .raised .badCommand w s
  | _, s => .done () s

/-- A command completes its body, always with a next state. -/
theorem exec_command (i : Instr) (s : State) (h : isCommand i = true) : exec i s = .next (bodyOf i s).finish := by
  cases i <;> first | rfl | (simp [isCommand, encode, readAt, writeAt] at h)

/-- What the body of a command may have changed when it ends in state `t`. -/
structure BodyFrame (s t : State) : Prop where
  same : t = { s with crcState := t.crcState, adlerValue := t.adlerValue, res := t.res, mem := t.mem,
                      draws := t.draws, status := { s.status with found := t.status.found } }
  wf : s.mem.wf = true → t.mem.wf = true
  inside : (∀ c ∈ s.mem, c.1 < s.bufBytes) → ∀ c ∈ t.mem, c.1 < s.bufBytes
  len : s.res.len.toNat ≤ 0x7FFFFFFF → t.res.len.toNat ≤ 0x7FFFFFFF
  count : s.res.count.toNat ≤ s.bufBytes / 12 → t.res.count.toNat ≤ s.bufBytes / 12

/-- The frame of a body that ended, and what a raise leaves besides (60_exceptions.md R278). -/
structure Run.Framed (s : State) (r : Run Unit) : Prop where
  frame : BodyFrame s r.last
  raise : ∀ e i t, r = .raised e i t →
    e ≠ .noError ∧ t.mem = s.mem ∧ t.crcState = s.crcState ∧ t.adlerValue = s.adlerValue ∧ t.status = s.status

/-- A raise after reads and reports. -/
theorem framed_raise (s : State) (e : ErrorCode) (i : Word) (r : Results) (n : Nat) (he : e ≠ .noError)
    (h1 : s.res.len.toNat ≤ 0x7FFFFFFF → r.len.toNat ≤ 0x7FFFFFFF)
    (h2 : s.res.count.toNat ≤ s.bufBytes / 12 → r.count.toNat ≤ s.bufBytes / 12) :
    (Run.raised e i { s with res := r, draws := n }).Framed s :=
  ⟨⟨rfl, id, id, h1, h2⟩, by rintro _ _ _ ⟨⟩; exact ⟨he, rfl, rfl, rfl, rfl⟩⟩

/-- A body that came to its end. -/
theorem framed_done {s t : State} (h : BodyFrame s t) : (Run.done () t).Framed s := ⟨h, by rintro _ _ _ ⟨⟩⟩

/-- A write inside the buffer lists no address outside it. -/
theorem inside_write {m : Memory} {B a : Nat} {bs : List Byte} (hf : a + bs.length ≤ B) (h : ∀ c ∈ m, c.1 < B) :
    ∀ c ∈ m.write a bs, c.1 < B := by
  intro c hc
  rcases Memory.mem_write m a bs hc with hh | hh
  · omega
  · exact h c hh


theorem crcBuf_framed (b : Bool) (s : State) : (crcBufBody b s).Framed s := by
  unfold crcBufBody
  split
  · exact framed_done ⟨rfl, id, id, id, id⟩
  · exact framed_raise s _ _ s.res s.draws (by decide) id id

theorem adlerBuf_framed (b : Bool) (s : State) : (adlerBufBody b s).Framed s := by
  unfold adlerBufBody
  split
  · exact framed_done ⟨rfl, id, id, id, id⟩
  · exact framed_raise s _ _ s.res s.draws (by decide) id id

theorem store_framed (v : Word) (s : State) : (storeTrailer v s).Framed s := by
  unfold storeTrailer
  split
  · refine framed_done ⟨rfl, Memory.write_wf _ _ _, ?_, id, id⟩
    exact inside_write (by rename_i h; exact (inRange_iff _ _ _).1 h)
  · exact framed_raise s _ _ s.res s.draws (by decide) id id

theorem check_framed (v : Word) (s : State) : (checkTrailer v s).Framed s := by
  unfold checkTrailer
  split
  · split
    · exact framed_done ⟨rfl, id, id, id, id⟩
    · exact framed_raise s _ _ s.res (s.draws + 1) (by decide) id id
  · exact framed_raise s _ _ s.res s.draws (by decide) id id

theorem sigWrite_framed (s : State) : (sigWriteBody s).Framed s := by
  unfold sigWriteBody
  split
  · refine framed_done ⟨rfl, Memory.write_wf _ _ _, ?_, id, id⟩
    exact inside_write (by rename_i h; exact (inRange_iff _ _ _).1 h)
  · exact framed_raise s _ _ s.res s.draws (by decide) id id

theorem sigCheck_framed (s : State) : (sigCheckBody s).Framed s := by
  unfold sigCheckBody
  split
  · split
    · exact framed_done ⟨rfl, id, id, id, id⟩
    · exact framed_raise s _ _ s.res (s.draws + 1) (by decide) id id
  · exact framed_raise s _ _ s.res s.draws (by decide) id id

/-- A frame command that raises with its result registers 0 (42_framing.md R198). -/
theorem zero_raise (s : State) (e : ErrorCode) (i : Word) (n : Nat) (he : e ≠ .noError) :
    (Run.raised e i { clearResults s with draws := n }).Framed s :=
  framed_raise s e i {} n he (fun _ => by decide) (fun _ => by simp)

/-- CHUNK_BUILD in range (42_framing.md R201): its three writes, with the CRC `c` of what it reads back. -/
theorem chunkBuild_eq (s : State) (h : s.argLen ≤ 0x7FFFFFFF) (hr : s.argAddr + 12 + s.argLen ≤ s.bufBytes) :
    ∃ c, c = crc32 (((s.putBE32 s.argAddr s.arg1).putBE32 (s.argAddr + 4) s.arg2).memRead (s.argAddr + 4) (4 + s.argLen))
      ∧ chunkBuildBody s = .done () { s with
        mem := ((s.mem.write s.argAddr (bytesBE s.arg1)).write (s.argAddr + 4) (bytesBE s.arg2)).write
          (s.argAddr + 8 + s.argLen) (bytesBE c)
        res := { len := BitVec.ofNat 32 s.argLen, tag := s.arg2, data := BitVec.ofNat 32 (s.argAddr + 8),
                 next := BitVec.ofNat 32 (s.argAddr + 12 + s.argLen), crc := c, count := 1#32 }
        draws := s.draws + 1 } := by
  have hm : ∀ p n, (((clearResults s).putBE32 s.argAddr s.arg1).putBE32 (s.argAddr + 4) s.arg2).memRead p n
      = ((s.putBE32 s.argAddr s.arg1).putBE32 (s.argAddr + 4) s.arg2).memRead p n := fun p n => memRead_congr rfl rfl p n
  refine ⟨_, rfl, ?_⟩
  unfold chunkBuildBody
  simp only [clearResults_argAddr, clearResults_argLen, clearResults_argTag, clearResults_arg1,
    show s.argTag = s.arg2 from rfl, hm]
  rw [if_neg (show ¬ maxLength < s.argLen from Nat.not_lt.2 h),
    if_pos ((inRange_iff _ _ _).2 (by rw [clearResults_bufBytes]; omega))]
  generalize crc32 _ = c
  simp only [countRecord, reportRecord, State.putBE32, State.memWrite, State.nextDraw, clearResults]
  rfl

/-- CHUNK_BUILD out of range (42_framing.md R201). -/
theorem chunkBuild_outside (s : State) (h : s.argLen ≤ 0x7FFFFFFF) (hr : s.bufBytes < s.argAddr + 12 + s.argLen) :
    chunkBuildBody s = .raised .range s.arg0 (clearResults s) := by
  unfold chunkBuildBody
  dsimp only
  rw [if_neg (show ¬ maxLength < (clearResults s).argLen from Nat.not_lt.2 h), if_neg]
  · rfl
  · rw [inRange_iff, clearResults_bufBytes, clearResults_argAddr, clearResults_argLen]
    omega

/-- CHUNK_BUILD with a length that no record may have (42_framing.md R201). -/
theorem chunkBuild_badLength (s : State) (h : 0x7FFFFFFF < s.argLen) :
    chunkBuildBody s = .raised .badLength s.arg0 (clearResults s) := by
  unfold chunkBuildBody
  dsimp only
  rw [if_pos (show maxLength < (clearResults s).argLen from h)]
  rfl

theorem chunkBuild_framed (s : State) : (chunkBuildBody s).Framed s := by
  by_cases h1 : s.argLen ≤ 0x7FFFFFFF
  · by_cases h2 : s.argAddr + 12 + s.argLen ≤ s.bufBytes
    · obtain ⟨c, -, h⟩ := chunkBuild_eq s h1 h2
      rw [h]
      refine framed_done ⟨rfl, fun hw => Memory.write_wf _ _ _ (Memory.write_wf _ _ _ (Memory.write_wf _ _ _ hw)),
        fun hi => inside_write ?_ (inside_write ?_ (inside_write ?_ hi)), fun _ => ?_, fun _ => ?_⟩
      · rw [length_bytesBE]
        omega
      · rw [length_bytesBE]
        omega
      · rw [length_bytesBE]
        omega
      · simp only [BitVec.toNat_ofNat]
        omega
      · simp only [BitVec.toNat_ofNat]
        omega
    · rw [chunkBuild_outside s h1 (by omega)]
      exact zero_raise s _ _ s.draws (by decide)
  · rw [chunkBuild_badLength s (by omega)]
    exact zero_raise s _ _ s.draws (by decide)

theorem chunkCheck_framed (s : State) : (chunkCheckBody s).Framed s := by
  unfold chunkCheckBody
  dsimp only
  split
  · rename_i hin
    simp only [inRange_iff, clearResults_argAddr, clearResults_argLen, clearResults_bufBytes] at hin
    rcases checkRecord_cases (clearResults s).argAddr ((clearResults s).argAddr + (clearResults s).argLen)
      (clearResults s) with ⟨e, n, he, h⟩ | ⟨r, n, h, hc, hl, -⟩ | ⟨len, tag, r, n, h, hc, hl, hf⟩
    · rw [h]
      exact zero_raise s _ _ n (by rcases he with rfl | rfl <;> decide)
    · rw [h]
      exact framed_raise s _ _ r n (by decide) (fun _ => hl) (fun _ => by rw [hc]; exact Nat.zero_le _)
    · rw [h]
      refine framed_done ⟨rfl, id, id, fun _ => hl, fun _ => ?_⟩
      show r.count.toNat ≤ _
      simp only [clearResults_argAddr, clearResults_argLen] at hf
      rw [hc, show (clearResults s).res.count = 0#32 from rfl]
      simp only [BitVec.zero_add, BitVec.toNat_ofNat]
      omega
  · exact zero_raise s _ _ s.draws (by decide)

/-- A walk from cleared result registers. -/
theorem walk_framed (fuel cursor stop : Nat) (target : Word) (s s' : State) (n : Nat)
    (hs : s' = { clearResults s with draws := n }) (h : stop ≤ s.bufBytes) (hb : stop < 2 ^ 33) :
    (walk fuel cursor stop target s').Framed s := by
  have hz : s'.res.count.toNat = 0 := by rw [hs]; rfl
  obtain ⟨r, n', hw, hc, hl⟩ := walk_cases fuel cursor stop target s' (by omega)
  rw [hz] at hc
  have hl := hl (by rw [hs]; exact Nat.zero_le _)
  rcases hw with ⟨b, hw⟩ | ⟨e, i, hw, he⟩
  · rw [hw, hs]
    refine framed_done ⟨rfl, id, id, fun _ => hl, fun _ => ?_⟩
    show r.count.toNat ≤ _
    omega
  · rw [hw, hs]
    exact framed_raise s _ _ r n' he (fun _ => hl) (fun _ => by omega)

theorem containerFind_framed (s : State) : (containerFindBody s).Framed s := by
  unfold containerFindBody
  dsimp only
  have := s.arg0.isLt
  have := s.arg1.isLt
  split
  · rename_i hin
    simp only [inRange_iff, clearResults_argAddr, clearResults_argLen, clearResults_bufBytes] at hin
    split
    · exact zero_raise s _ _ s.draws (by decide)
    · split
      · exact walk_framed _ _ _ _ s _ (s.draws + 1) rfl hin (by
        simp only [State.argAddr, State.argLen, clearResults_arg0, clearResults_arg1]
        omega)
      · exact zero_raise s _ _ (s.draws + 1) (by decide)
  · exact zero_raise s _ _ s.draws (by decide)

theorem chunkFind_framed (s : State) : (chunkFindBody s).Framed s := by
  unfold chunkFindBody
  dsimp only
  have := s.arg0.isLt
  have := s.arg1.isLt
  split
  · rename_i hin
    simp only [inRange_iff, clearResults_argAddr, clearResults_argLen, clearResults_bufBytes] at hin
    exact walk_framed _ _ _ _ s _ (s.draws) rfl hin (by
        simp only [State.argAddr, State.argLen, clearResults_arg0, clearResults_arg1]
        omega)
  · exact zero_raise s _ _ s.draws (by decide)

/-- The frame of every command. -/
theorem bodyOf_framed (i : Instr) (s : State) : (bodyOf i s).Framed s := by
  cases i
  case crcBuf => exact crcBuf_framed _ _
  case crcBufI => exact crcBuf_framed _ _
  case crcStore => exact store_framed _ _
  case crcCheck => exact check_framed _ _
  case adlerBuf => exact adlerBuf_framed _ _
  case adlerBufI => exact adlerBuf_framed _ _
  case adlerStore => exact store_framed _ _
  case adlerCheck => exact check_framed _ _
  case sigWrite => exact sigWrite_framed _
  case sigCheck => exact sigCheck_framed _
  case chunkBuild => exact chunkBuild_framed _
  case chunkCheck => exact chunkCheck_framed _
  case containerFind => exact containerFind_framed _
  case chunkFind => exact chunkFind_framed _
  case illegal w => exact framed_raise s _ _ s.res s.draws (by decide) id id
  all_goals exact framed_done ⟨rfl, id, id, id, id⟩

/-- Cleared result registers, after a walk passed legal records: the last of them described, all counted
(42_framing.md R198, R204). -/
theorem passed_results (before : List Rec) (c : Nat) (u : State) (hu : u.res = {}) :
    (if before = [] then u.res else
      { lastResults c before with count := u.res.count + BitVec.ofNat 32 before.length }) = lastResults c before := by
  rw [hu]
  cases before with
  | nil => rfl
  | cons q rs =>
    rw [if_neg (List.cons_ne_nil _ _), show ({} : Results).count = 0#32 from rfl, BitVec.zero_add]
    simp only [lastResults]
    rw [List.getLast?_eq_some_getLast (List.cons_ne_nil q rs)]
    rfl

/-- A walk command that comes to the record at `p` is what the walk from there is, at least one round left, the records
it passed described and counted (42_framing.md R197, R203, R205). -/
theorem exec_walk {s : State} {i : Instr} {before : List Rec} {p : Nat} (h : s.WalkReaches i before p) :
    ∃ fuel n, exec i s = .next (walk (fuel + 1) p (s.arg0.toNat + s.arg1.toNat) s.arg2
      { s with res := lastResults (s.arg0.toNat + (walkPrefix i).length) before, draws := n }).finish := by
  obtain ⟨hi, hb, hin, hh, hp, hl⟩ := h
  have hle := length_le_recordSize before
  have hI : (clearResults s).inRange (clearResults s).argAddr (clearResults s).argLen = true :=
    (inRange_iff _ _ _).2 hin
  rw [Memory.holds_append, Bool.and_eq_true] at hh
  rcases hi with rfl | rfl
  · simp only [walkPrefix, List.length_nil, Nat.add_zero] at hp hh
    rw [exec_command _ _ rfl, bodyOf, chunkFindBody]
    simp only [if_pos hI]
    obtain ⟨n, hn⟩ := walk_past before (clearResults s).argLen (clearResults s).argAddr
      ((clearResults s).argAddr + (clearResults s).argLen) (clearResults s).argTag (clearResults s) hb
      (by show _ ≤ s.arg1.toNat; omega) (by show s.arg0.toNat + _ ≤ s.arg0.toNat + s.arg1.toNat; omega) hh.2
    refine ⟨s.arg1.toNat - before.length - 1, n, ?_⟩
    rw [hn, passed_results _ _ _ rfl, hp,
      show s.arg1.toNat - before.length - 1 + 1 = s.arg1.toNat - before.length by omega]
    rfl
  · simp only [walkPrefix, show signature.length = 8 from rfl] at hp hh
    rw [exec_command _ _ rfl, bodyOf, containerFindBody]
    simp only [if_pos hI]
    rw [if_neg (show ¬ (clearResults s).argLen < 8 by show ¬ s.arg1.toNat < 8; omega),
      if_pos (memRead_of_holds (clearResults s) (clearResults s).argAddr 8 signature rfl hh.1)]
    obtain ⟨n, hn⟩ := walk_past before ((clearResults s).argLen - 8) ((clearResults s).argAddr + 8)
      ((clearResults s).argAddr + (clearResults s).argLen) (clearResults s).argTag (clearResults s).nextDraw hb
      (by show _ ≤ s.arg1.toNat - 8; omega) (by show s.arg0.toNat + 8 + _ ≤ s.arg0.toNat + s.arg1.toNat; omega) hh.2
    refine ⟨s.arg1.toNat - 8 - before.length - 1, n, ?_⟩
    rw [hn, passed_results _ _ (clearResults s).nextDraw rfl, hp,
      show s.arg1.toNat - 8 - before.length - 1 + 1 = s.arg1.toNat - 8 - before.length by omega]
    rfl

end Sys2Proof.Machine
end

