-- ==== Sys2Proof/Laws/PerInstr.lean ====
section
/-! SUPPORT. Per instruction: what the encoder writes stays inside the interface of the block (20_memory.md R72), a
command word or a 32-bit access at a multiple of 4 below 0x1000. -/

namespace Sys2Proof.Laws

/-- A transaction of the interface. -/
def insideInterface : Transaction → Prop
  | .command _ => True
  | .access (.read width off) => width = .w32 ∧ off % 4 = 0 ∧ off < 0x1000
  | .access (.write width off _) => width = .w32 ∧ off % 4 = 0 ∧ off < 0x1000

/-- The encoding of the instruction stays inside the interface. -/
def Encoded.Statement (i : Instr) : Prop := insideInterface (encode i)

/-- The offsets of a reserved range stay inside the frame. -/
theorem inside_range {w base : Nat} (k : BitVec w) (hb : base % 4 = 0) (hw : base + 4 * 2 ^ w ≤ 0x1000) :
    AccessWidth.w32 = .w32 ∧ (base + 4 * k.toNat) % 4 = 0 ∧ base + 4 * k.toNat < 0x1000 := by
  have := k.isLt
  exact ⟨rfl, by omega, by omega⟩

theorem Encoded.nop : Encoded.Statement .nop := trivial
theorem Encoded.crcReset : Encoded.Statement .crcReset := trivial
theorem Encoded.crcBuf : Encoded.Statement .crcBuf := trivial
theorem Encoded.crcBufI : Encoded.Statement .crcBufI := trivial
theorem Encoded.crcStore : Encoded.Statement .crcStore := trivial
theorem Encoded.crcCheck : Encoded.Statement .crcCheck := trivial
theorem Encoded.adlerReset : Encoded.Statement .adlerReset := trivial
theorem Encoded.adlerBuf : Encoded.Statement .adlerBuf := trivial
theorem Encoded.adlerBufI : Encoded.Statement .adlerBufI := trivial
theorem Encoded.adlerStore : Encoded.Statement .adlerStore := trivial
theorem Encoded.adlerCheck : Encoded.Statement .adlerCheck := trivial
theorem Encoded.sigWrite : Encoded.Statement .sigWrite := trivial
theorem Encoded.sigCheck : Encoded.Statement .sigCheck := trivial
theorem Encoded.chunkBuild : Encoded.Statement .chunkBuild := trivial
theorem Encoded.chunkCheck : Encoded.Statement .chunkCheck := trivial
theorem Encoded.containerFind : Encoded.Statement .containerFind := trivial
theorem Encoded.chunkFind : Encoded.Statement .chunkFind := trivial
theorem Encoded.illegal (w : Word) : Encoded.Statement (.illegal w) := trivial
theorem Encoded.rdId : Encoded.Statement .rdId := ⟨rfl, by decide, by decide⟩
theorem Encoded.rdCtrl : Encoded.Statement .rdCtrl := ⟨rfl, by decide, by decide⟩
theorem Encoded.wrCtrl (v : Word) : Encoded.Statement (.wrCtrl v) := ⟨rfl, by decide, by decide⟩
theorem Encoded.rdStatus : Encoded.Statement .rdStatus := ⟨rfl, by decide, by decide⟩
theorem Encoded.wrStatus (v : Word) : Encoded.Statement (.wrStatus v) := ⟨rfl, by decide, by decide⟩
theorem Encoded.rdCmd : Encoded.Statement .rdCmd := ⟨rfl, by decide, by decide⟩
theorem Encoded.wrCmd (v : Word) : Encoded.Statement (.wrCmd v) := ⟨rfl, by decide, by decide⟩
theorem Encoded.rdArg0 : Encoded.Statement .rdArg0 := ⟨rfl, by decide, by decide⟩
theorem Encoded.rdArg1 : Encoded.Statement .rdArg1 := ⟨rfl, by decide, by decide⟩
theorem Encoded.rdArg2 : Encoded.Statement .rdArg2 := ⟨rfl, by decide, by decide⟩
theorem Encoded.wrArg0 (v : Word) : Encoded.Statement (.wrArg0 v) := ⟨rfl, by decide, by decide⟩
theorem Encoded.wrArg1 (v : Word) : Encoded.Statement (.wrArg1 v) := ⟨rfl, by decide, by decide⟩
theorem Encoded.wrArg2 (v : Word) : Encoded.Statement (.wrArg2 v) := ⟨rfl, by decide, by decide⟩
theorem Encoded.rdBufSize : Encoded.Statement .rdBufSize := ⟨rfl, by decide, by decide⟩
theorem Encoded.rdCrcState : Encoded.Statement .rdCrcState := ⟨rfl, by decide, by decide⟩
theorem Encoded.wrCrcState (v : Word) : Encoded.Statement (.wrCrcState v) := ⟨rfl, by decide, by decide⟩
theorem Encoded.rdCrcValue : Encoded.Statement .rdCrcValue := ⟨rfl, by decide, by decide⟩
theorem Encoded.wrCrcValue (v : Word) : Encoded.Statement (.wrCrcValue v) := ⟨rfl, by decide, by decide⟩
theorem Encoded.wrCrcData8 (v : Word) : Encoded.Statement (.wrCrcData8 v) := ⟨rfl, by decide, by decide⟩
theorem Encoded.wrCrcData32 (v : Word) : Encoded.Statement (.wrCrcData32 v) := ⟨rfl, by decide, by decide⟩
theorem Encoded.rdAdlerValue : Encoded.Statement .rdAdlerValue := ⟨rfl, by decide, by decide⟩
theorem Encoded.wrAdlerValue (v : Word) : Encoded.Statement (.wrAdlerValue v) := ⟨rfl, by decide, by decide⟩
theorem Encoded.wrAdlerData8 (v : Word) : Encoded.Statement (.wrAdlerData8 v) := ⟨rfl, by decide, by decide⟩
theorem Encoded.wrAdlerData32 (v : Word) : Encoded.Statement (.wrAdlerData32 v) := ⟨rfl, by decide, by decide⟩
theorem Encoded.rdBufAddr : Encoded.Statement .rdBufAddr := ⟨rfl, by decide, by decide⟩
theorem Encoded.wrBufAddr (v : Word) : Encoded.Statement (.wrBufAddr v) := ⟨rfl, by decide, by decide⟩
theorem Encoded.rdBufData8 : Encoded.Statement .rdBufData8 := ⟨rfl, by decide, by decide⟩
theorem Encoded.wrBufData8 (v : Word) : Encoded.Statement (.wrBufData8 v) := ⟨rfl, by decide, by decide⟩
theorem Encoded.rdBufData32 : Encoded.Statement .rdBufData32 := ⟨rfl, by decide, by decide⟩
theorem Encoded.wrBufData32 (v : Word) : Encoded.Statement (.wrBufData32 v) := ⟨rfl, by decide, by decide⟩
theorem Encoded.rdResLen : Encoded.Statement .rdResLen := ⟨rfl, by decide, by decide⟩
theorem Encoded.rdResTag : Encoded.Statement .rdResTag := ⟨rfl, by decide, by decide⟩
theorem Encoded.rdResData : Encoded.Statement .rdResData := ⟨rfl, by decide, by decide⟩
theorem Encoded.rdResNext : Encoded.Statement .rdResNext := ⟨rfl, by decide, by decide⟩
theorem Encoded.rdResCrc : Encoded.Statement .rdResCrc := ⟨rfl, by decide, by decide⟩
theorem Encoded.rdResCount : Encoded.Statement .rdResCount := ⟨rfl, by decide, by decide⟩
theorem Encoded.rdErrInfo : Encoded.Statement .rdErrInfo := ⟨rfl, by decide, by decide⟩
theorem Encoded.wrId (v : Word) : Encoded.Statement (.wrId v) := ⟨rfl, by decide, by decide⟩
theorem Encoded.wrBufSize (v : Word) : Encoded.Statement (.wrBufSize v) := ⟨rfl, by decide, by decide⟩
theorem Encoded.wrResLen (v : Word) : Encoded.Statement (.wrResLen v) := ⟨rfl, by decide, by decide⟩
theorem Encoded.wrResTag (v : Word) : Encoded.Statement (.wrResTag v) := ⟨rfl, by decide, by decide⟩
theorem Encoded.wrResData (v : Word) : Encoded.Statement (.wrResData v) := ⟨rfl, by decide, by decide⟩
theorem Encoded.wrResNext (v : Word) : Encoded.Statement (.wrResNext v) := ⟨rfl, by decide, by decide⟩
theorem Encoded.wrResCrc (v : Word) : Encoded.Statement (.wrResCrc v) := ⟨rfl, by decide, by decide⟩
theorem Encoded.wrResCount (v : Word) : Encoded.Statement (.wrResCount v) := ⟨rfl, by decide, by decide⟩
theorem Encoded.wrErrInfo (v : Word) : Encoded.Statement (.wrErrInfo v) := ⟨rfl, by decide, by decide⟩
theorem Encoded.rdCrcData8 : Encoded.Statement .rdCrcData8 := ⟨rfl, by decide, by decide⟩
theorem Encoded.rdCrcData32 : Encoded.Statement .rdCrcData32 := ⟨rfl, by decide, by decide⟩
theorem Encoded.rdAdlerData8 : Encoded.Statement .rdAdlerData8 := ⟨rfl, by decide, by decide⟩
theorem Encoded.rdAdlerData32 : Encoded.Statement .rdAdlerData32 := ⟨rfl, by decide, by decide⟩
theorem Encoded.rdRsv034 : Encoded.Statement .rdRsv034 := ⟨rfl, by decide, by decide⟩
theorem Encoded.rdRsv04C : Encoded.Statement .rdRsv04C := ⟨rfl, by decide, by decide⟩
theorem Encoded.rdRsv06C : Encoded.Statement .rdRsv06C := ⟨rfl, by decide, by decide⟩
theorem Encoded.rdRsv070 (k : BitVec 2) : Encoded.Statement (.rdRsv070 k) := inside_range k (by decide) (by decide)
theorem Encoded.rdRsv080 (k : BitVec 5) : Encoded.Statement (.rdRsv080 k) := inside_range k (by decide) (by decide)
theorem Encoded.rdRsv100 (k : BitVec 6) : Encoded.Statement (.rdRsv100 k) := inside_range k (by decide) (by decide)
theorem Encoded.rdRsv200 (k : BitVec 7) : Encoded.Statement (.rdRsv200 k) := inside_range k (by decide) (by decide)
theorem Encoded.rdRsv400 (k : BitVec 8) : Encoded.Statement (.rdRsv400 k) := inside_range k (by decide) (by decide)
theorem Encoded.rdRsv800 (k : BitVec 9) : Encoded.Statement (.rdRsv800 k) := inside_range k (by decide) (by decide)
theorem Encoded.wrRsv034 (v : Word) : Encoded.Statement (.wrRsv034 v) := ⟨rfl, by decide, by decide⟩
theorem Encoded.wrRsv04C (v : Word) : Encoded.Statement (.wrRsv04C v) := ⟨rfl, by decide, by decide⟩
theorem Encoded.wrRsv06C (v : Word) : Encoded.Statement (.wrRsv06C v) := ⟨rfl, by decide, by decide⟩
theorem Encoded.wrRsv070 (k : BitVec 2) (v : Word) : Encoded.Statement (.wrRsv070 k v) := inside_range k (by decide) (by decide)
theorem Encoded.wrRsv080 (k : BitVec 5) (v : Word) : Encoded.Statement (.wrRsv080 k v) := inside_range k (by decide) (by decide)
theorem Encoded.wrRsv100 (k : BitVec 6) (v : Word) : Encoded.Statement (.wrRsv100 k v) := inside_range k (by decide) (by decide)
theorem Encoded.wrRsv200 (k : BitVec 7) (v : Word) : Encoded.Statement (.wrRsv200 k v) := inside_range k (by decide) (by decide)
theorem Encoded.wrRsv400 (k : BitVec 8) (v : Word) : Encoded.Statement (.wrRsv400 k v) := inside_range k (by decide) (by decide)
theorem Encoded.wrRsv800 (k : BitVec 9) (v : Word) : Encoded.Statement (.wrRsv800 k v) := inside_range k (by decide) (by decide)

end Sys2Proof.Laws
end

