-- ==== Sys2Proof/Tests/Slice0.lean ====
section
/-! SUPPORT. Tests of the model: ill-formed terms, words written out from the opcode table, one-step tests with the
values of the spec's examples and vectors (95_test_vectors.md, and the Example line of the rule named), and for each
statement of Certificates/Slice0/Obligations.lean with hypotheses a state that meets them. -/

namespace Sys2Proof.Tests

open Sys2Proof.Machine

/-! ### WellFormed -/

theorem test_wf_refuses_nop_as_illegal : (Instr.illegal 0x00000000#32).wf = false := by decide
theorem test_wf_refuses_every_map_word : commandWords.all (fun w => !(Instr.illegal w).wf) = true := by decide
theorem test_wf_accepts_words_outside_the_map :
    (Instr.illegal 0x00000101#32).wf = true ∧ (Instr.illegal 0x00000200#32).wf = true := by decide

/-! ### Decode: the words and keys of the opcode table (30_encoding.md R106, R111; 10_state.md R21), each row once -/

theorem test_decode_commands :
    decodeTableWord 32 0b00000000000000000000000000000000 = some .nop
    ∧ decodeTableWord 32 0b00000000000000000000000000000001 = some .crcReset
    ∧ decodeTableWord 32 0b00000000000000000000000000000010 = some .crcBuf
    ∧ decodeTableWord 32 0b00000000000000000000000100000010 = some .crcBufI
    ∧ decodeTableWord 32 0b00000000000000000000000000000011 = some .crcStore
    ∧ decodeTableWord 32 0b00000000000000000000000000000100 = some .crcCheck
    ∧ decodeTableWord 32 0b00000000000000000000000000001000 = some .adlerReset
    ∧ decodeTableWord 32 0b00000000000000000000000000001001 = some .adlerBuf
    ∧ decodeTableWord 32 0b00000000000000000000000100001001 = some .adlerBufI
    ∧ decodeTableWord 32 0b00000000000000000000000000001010 = some .adlerStore
    ∧ decodeTableWord 32 0b00000000000000000000000000001011 = some .adlerCheck
    ∧ decodeTableWord 32 0b00000000000000000000000000010000 = some .sigWrite
    ∧ decodeTableWord 32 0b00000000000000000000000000010001 = some .sigCheck
    ∧ decodeTableWord 32 0b00000000000000000000000000010010 = some .chunkBuild
    ∧ decodeTableWord 32 0b00000000000000000000000000010011 = some .chunkCheck
    ∧ decodeTableWord 32 0b00000000000000000000000000010100 = some .containerFind
    ∧ decodeTableWord 32 0b00000000000000000000000000010101 = some .chunkFind
    ∧ decodeTableWord 32 0b00000000000000000000000000000101 = some (.illegal 5) := by
  decide

theorem test_decode_reads :
    decodeTableWord 16 0b0000000000000 = some .rdId
    ∧ decodeTableWord 16 0b0000000000100 = some .rdCtrl
    ∧ decodeTableWord 16 0b0000000001000 = some .rdStatus
    ∧ decodeTableWord 16 0b0000000001100 = some .rdCmd
    ∧ decodeTableWord 16 0b0000000010000 = some .rdArg0
    ∧ decodeTableWord 16 0b0000000010100 = some .rdArg1
    ∧ decodeTableWord 16 0b0000000011000 = some .rdArg2
    ∧ decodeTableWord 16 0b0000000011100 = some .rdBufSize
    ∧ decodeTableWord 16 0b0000000100000 = some .rdCrcState
    ∧ decodeTableWord 16 0b0000000100100 = some .rdCrcValue
    ∧ decodeTableWord 16 0b0000000110000 = some .rdAdlerValue
    ∧ decodeTableWord 16 0b0000001000000 = some .rdBufAddr
    ∧ decodeTableWord 16 0b0000001000100 = some .rdBufData8
    ∧ decodeTableWord 16 0b0000001001000 = some .rdBufData32
    ∧ decodeTableWord 16 0b0000001010000 = some .rdResLen
    ∧ decodeTableWord 16 0b0000001010100 = some .rdResTag
    ∧ decodeTableWord 16 0b0000001011000 = some .rdResData
    ∧ decodeTableWord 16 0b0000001011100 = some .rdResNext
    ∧ decodeTableWord 16 0b0000001100000 = some .rdResCrc
    ∧ decodeTableWord 16 0b0000001100100 = some .rdResCount
    ∧ decodeTableWord 16 0b0000001101000 = some .rdErrInfo
    ∧ decodeTableWord 16 0b0000000101000 = some .rdCrcData8
    ∧ decodeTableWord 16 0b0000000101100 = some .rdCrcData32
    ∧ decodeTableWord 16 0b0000000111000 = some .rdAdlerData8
    ∧ decodeTableWord 16 0b0000000111100 = some .rdAdlerData32 := by
  decide

theorem test_decode_writes :
    decodeTableWord 16 0b1000000000100 = some (.wrCtrl 0)
    ∧ decodeTableWord 16 0b1000000001000 = some (.wrStatus 0)
    ∧ decodeTableWord 16 0b1000000001100 = some (.wrCmd 0)
    ∧ decodeTableWord 16 0b1000000010000 = some (.wrArg0 0)
    ∧ decodeTableWord 16 0b1000000010100 = some (.wrArg1 0)
    ∧ decodeTableWord 16 0b1000000011000 = some (.wrArg2 0)
    ∧ decodeTableWord 16 0b1000000100000 = some (.wrCrcState 0)
    ∧ decodeTableWord 16 0b1000000100100 = some (.wrCrcValue 0)
    ∧ decodeTableWord 16 0b1000000101000 = some (.wrCrcData8 0)
    ∧ decodeTableWord 16 0b1000000101100 = some (.wrCrcData32 0)
    ∧ decodeTableWord 16 0b1000000110000 = some (.wrAdlerValue 0)
    ∧ decodeTableWord 16 0b1000000111000 = some (.wrAdlerData8 0)
    ∧ decodeTableWord 16 0b1000000111100 = some (.wrAdlerData32 0)
    ∧ decodeTableWord 16 0b1000001000000 = some (.wrBufAddr 0)
    ∧ decodeTableWord 16 0b1000001000100 = some (.wrBufData8 0)
    ∧ decodeTableWord 16 0b1000001001000 = some (.wrBufData32 0)
    ∧ decodeTableWord 16 0b1000000000000 = some (.wrId 0)
    ∧ decodeTableWord 16 0b1000000011100 = some (.wrBufSize 0)
    ∧ decodeTableWord 16 0b1000001010000 = some (.wrResLen 0)
    ∧ decodeTableWord 16 0b1000001010100 = some (.wrResTag 0)
    ∧ decodeTableWord 16 0b1000001011000 = some (.wrResData 0)
    ∧ decodeTableWord 16 0b1000001011100 = some (.wrResNext 0)
    ∧ decodeTableWord 16 0b1000001100000 = some (.wrResCrc 0)
    ∧ decodeTableWord 16 0b1000001100100 = some (.wrResCount 0)
    ∧ decodeTableWord 16 0b1000001101000 = some (.wrErrInfo 0) := by
  decide

theorem test_decode_reserved_reads :
    decodeTableWord 16 0b0000000110100 = some .rdRsv034
    ∧ decodeTableWord 16 0b0000001001100 = some .rdRsv04C
    ∧ decodeTableWord 16 0b0000001101100 = some .rdRsv06C
    ∧ decodeTableWord 16 0b0000001111000 = some (.rdRsv070 2)
    ∧ decodeTableWord 16 0b0000011111000 = some (.rdRsv080 30)
    ∧ decodeTableWord 16 0b0000111111000 = some (.rdRsv100 62)
    ∧ decodeTableWord 16 0b0001111111000 = some (.rdRsv200 126)
    ∧ decodeTableWord 16 0b0011111111000 = some (.rdRsv400 254)
    ∧ decodeTableWord 16 0b0111111111000 = some (.rdRsv800 510) := by
  decide

theorem test_decode_reserved_writes :
    decodeTableWord 16 0b1000000110100 = some (.wrRsv034 0)
    ∧ decodeTableWord 16 0b1000001001100 = some (.wrRsv04C 0)
    ∧ decodeTableWord 16 0b1000001101100 = some (.wrRsv06C 0)
    ∧ decodeTableWord 16 0b1000001111000 = some (.wrRsv070 2 0)
    ∧ decodeTableWord 16 0b1000011111000 = some (.wrRsv080 30 0)
    ∧ decodeTableWord 16 0b1000111111000 = some (.wrRsv100 62 0)
    ∧ decodeTableWord 16 0b1001111111000 = some (.wrRsv200 126 0)
    ∧ decodeTableWord 16 0b1011111111000 = some (.wrRsv400 254 0)
    ∧ decodeTableWord 16 0b1111111111000 = some (.wrRsv800 510 0) := by
  decide

/-- A write's value stands behind its key. -/
theorem test_decode_written_value :
    decodeTableWord 48 0b00010010001101000101011001111000_0001000000010000 = some (.wrArg0 0x12345678#32) := by
  decide

/-- No key has bit 13, 14 or 15; the accesses outside the interface are named (20_memory.md R73). -/
theorem test_decode_outside :
    decodeTableWord 16 0b0010000000000000 = none
    ∧ portViolation .w8 0x010 = some .narrow ∧ portViolation .w16 0x010 = some .narrow
    ∧ portViolation .w32 0x012 = some .unaligned ∧ portViolation .w32 0x1000 = some .outsideFrame
    ∧ portViolation .w32 0xFFC = none := by
  decide

/-! ### Helpers -/

/-- The next state, if there is one. -/
def after (o : Host.Outcome State Fault Refusal) : Option State :=
  match o with
  | .next t => some t
  | .fault _ => none
  | .refused _ => none

/-- The reset state with operands and buffer bytes. -/
def st (a0 a1 a2 : Word) (m : Memory) : State := { State.reset with arg0 := a0, arg1 := a1, arg2 := a2, mem := m }

/-- Bytes from an address on. -/
def bytesAt (a : Nat) (bs : List Byte) : Memory := Memory.write [] a bs

def digits : List Byte := [0x31#8, 0x32#8, 0x33#8, 0x34#8, 0x35#8, 0x36#8, 0x37#8, 0x38#8, 0x39#8]
def hello : List Byte := [0x68#8, 0x65#8, 0x6C#8, 0x6C#8, 0x6F#8]
def sig : List Byte := [0x89#8, 0x50#8, 0x4E#8, 0x47#8, 0x0D#8, 0x0A#8, 0x1A#8, 0x0A#8]

/-- The empty "IEND" record (program P2). -/
def iend : List Byte :=
  [0x00#8, 0x00#8, 0x00#8, 0x00#8, 0x49#8, 0x45#8, 0x4E#8, 0x44#8, 0xAE#8, 0x42#8, 0x60#8, 0x82#8]

/-- The "teSt" record with data "hi" (95_test_vectors.md section 4). -/
def teSt : List Byte :=
  [0x00#8, 0x00#8, 0x00#8, 0x02#8, 0x74#8, 0x65#8, 0x53#8, 0x74#8, 0x68#8, 0x69#8, 0x63#8, 0xA9#8, 0x4E#8, 0xDA#8]

/-- The 34-byte container at 0 of 95_test_vectors.md section 4. -/
def container (target : Word) : State := st 0 34 target (bytesAt 0 (sig ++ iend ++ teSt))

/-- The 37-byte container at 0 of program P3, the byte at 17 as given, with `len` bytes of it searched. -/
def p3 (at17 : Byte) (len target : Word) : State :=
  st 0 len target (bytesAt 0 (sig ++ [0x00#8, 0x00#8, 0x00#8, 0x05#8, 0x74#8, 0x65#8, 0x53#8, 0x74#8, 0x68#8, at17,
    0x6C#8, 0x6C#8, 0x6F#8, 0xA1#8, 0xF1#8, 0xC5#8, 0xCE#8] ++ iend))

/-- STATUS and ERR_INFO after. -/
def flagsAfter (o : Host.Outcome State Fault Refusal) : Option (Word × Word) :=
  (after o).map fun t => (t.status.word, t.errInfo)

/-- RES_LEN, RES_TAG, RES_DATA, RES_NEXT, RES_CRC, RES_COUNT after. -/
def resAfter (o : Host.Outcome State Fault Refusal) : Option (List Word) :=
  (after o).map fun t => [t.res.len, t.res.tag, t.res.data, t.res.next, t.res.crc, t.res.count]

/-- The value a read returned. -/
def readAfter (o : Host.Outcome State Fault Refusal) : Option Word := (after o).map fun t => t.readData

/-- The state with a command in flight. -/
def busy (s : State) : State := { s with status := s.status.started }

/-! ### Commands -/

/-- R243. -/
theorem test_nop : flagsAfter (exec .nop (busy State.reset)) = some (0x00000002#32, 0#32) := by decide
/-- R244. -/
theorem test_illegal : flagsAfter (exec (.illegal 5#32) (busy State.reset)) = some (0x00000606#32, 5#32) := by decide
/-- R137. -/
theorem test_crc_reset :
    (after (exec .crcReset { State.reset with crcState := 0x12345678#32 })).map (·.crcState)
      = some 0xFFFFFFFF#32 := by decide
/-- Section 2, "123456789", and step 7: sums do not wrap. -/
theorem test_crc_buf :
    (after (exec .crcBuf (st 0 9 0 (bytesAt 0 digits)))).map (·.crcState) = some 0x340BC6D9#32 := by decide +kernel
theorem test_crc_buf_range :
    flagsAfter (exec .crcBuf (busy (st 0xFFFFFFFF#32 0xFFFFFFFF#32 0 []))) = some (0x00000506#32, 0xFFFFFFFF#32) := by
  decide
/-- R138, from 0xFFFFFFFF whatever CRC_STATE holds. -/
theorem test_crc_buf_i :
    (after (exec .crcBufI { st 0 9 0 (bytesAt 0 digits) with crcState := 0#32 })).map (·.crcState)
      = some 0x340BC6D9#32 := by decide +kernel
/-- Section 2, steps 8 and 9. -/
theorem test_crc_store :
    (after (exec .crcStore { st 0xFFFC 0 0 [] with crcState := 0x340BC6D9#32 })).map (·.mem)
      = some [(0xFFFC, 0xCB#8), (0xFFFD, 0xF4#8), (0xFFFE, 0x39#8), (0xFFFF, 0x26#8)] := by decide
theorem test_crc_store_range :
    flagsAfter (exec .crcStore (busy (st 0xFFFD 0 0 []))) = some (0x00000506#32, 0x0000FFFD#32) := by decide
/-- R140: the example that succeeds and the one that fails. -/
theorem test_crc_check :
    flagsAfter (exec .crcCheck (busy { st 0x210 0 0 (bytesAt 0x210 [0x0D#8, 0x4A#8, 0x11#8, 0x85#8]) with
      crcState := 0xF2B5EE7A#32 })) = some (0x00000002#32, 0#32) := by decide
theorem test_crc_check_fails :
    flagsAfter (exec .crcCheck (busy { st 0x20B 0 0 (bytesAt 0x20B [0x1A#8, 0x0B#8, 0x04#8, 0x5D#8]) with
      crcState := 0xF2B5EE7A#32 })) = some (0x00000206#32, 0x0000020B#32) := by decide
/-- R165. -/
theorem test_adler_reset :
    (after (exec .adlerReset { State.reset with adlerValue := 0x1A0B045D#32 })).map (·.adlerValue)
      = some 0x00000001#32 := by decide
/-- Section 3, "123456789"; and R166: "hello" from a seed that reduces. -/
theorem test_adler_buf :
    (after (exec .adlerBuf (st 0 9 0 (bytesAt 0 digits)))).map (·.adlerValue) = some 0x091E01DE#32 := by decide
theorem test_adler_buf_i :
    (after (exec .adlerBufI { st 0 5 0 (bytesAt 0 hello) with adlerValue := 0x12345678#32 })).map (·.adlerValue)
      = some 0x062C0215#32 := by decide
/-- Section 3. -/
theorem test_adler_store :
    (after (exec .adlerStore { st 0x20 0 0 [] with adlerValue := 0x091E01DE#32 })).map (·.mem)
      = some [(0x20, 0x09#8), (0x21, 0x1E#8), (0x22, 0x01#8), (0x23, 0xDE#8)] := by decide
theorem test_adler_check :
    flagsAfter (exec .adlerCheck (busy { st 0x20 0 0 (bytesAt 0x20 [0x09#8, 0x1E#8, 0x01#8, 0xDE#8]) with
      adlerValue := 0x091E01DE#32 })) = some (0x00000002#32, 0#32) := by decide
theorem test_adler_check_fails :
    flagsAfter (exec .adlerCheck (busy { st 0x20 0 0 (bytesAt 0x20 [0x09#8, 0x1E#8, 0x01#8, 0xDF#8]) with
      adlerValue := 0x091E01DE#32 })) = some (0x00000206#32, 0x00000020#32) := by decide
/-- R199, and section 4: SIG_WRITE at 0xFFF9. -/
theorem test_sig_write : (after (exec .sigWrite (st 0 0 0 []))).map (·.mem) = some (bytesAt 0 sig) := by decide
theorem test_sig_write_range :
    flagsAfter (exec .sigWrite (busy (st 0xFFF9 0 0 []))) = some (0x00000506#32, 0x0000FFF9#32) := by decide
/-- R200. -/
theorem test_sig_check :
    flagsAfter (exec .sigCheck (busy (st 0 0 0 (bytesAt 0 sig)))) = some (0x00000002#32, 0#32) := by decide
theorem test_sig_check_fails :
    flagsAfter (exec .sigCheck (busy (st 0 0 0 (bytesAt 0 (0x88#8 :: sig.tail))))) = some (0x00000106#32, 0#32) := by
  decide
/-- R201, its bytes; section 4, BAD_LENGTH before RANGE. -/
theorem test_chunk_build :
    (after (exec .chunkBuild (st 0x100 0 0x49454E44#32 []))).map (·.mem) = some (bytesAt 0x100 iend) := by
  decide +kernel
theorem test_chunk_build_bad_length :
    flagsAfter (exec .chunkBuild (busy (st 0x100 0x80000000#32 0x41414141#32 []))) = some (0x00000406#32, 0x100#32) := by
  decide
/-- Section 4, rows of CHUNK_CHECK. -/
theorem test_chunk_check :
    resAfter (exec .chunkCheck (st 0x100 100 0 (bytesAt 0x100 iend)))
      = some [0#32, 0x49454E44#32, 0x108#32, 0x10C#32, 0xAE426082#32, 1#32] := by decide +kernel
theorem test_chunk_check_bad_crc :
    resAfter (exec .chunkCheck (st 0x300 12 0 (bytesAt 0x300 (iend.dropLast ++ [0x83#8]))))
      = some [0#32, 0x49454E44#32, 0x308#32, 0x30C#32, 0xAE426082#32, 0#32] := by decide +kernel
/-- Section 4, the record after a terminator, and FOUND; program P3, steps d and g. -/
theorem test_container_find :
    resAfter (exec .containerFind (container 0x74655374#32))
      = some [2#32, 0x74655374#32, 0x1C#32, 0x22#32, 0x63A94EDA#32, 2#32]
    ∧ resAfter (exec .containerFind (p3 0x45 37 0x74655374))
      = some [5#32, 0x74655374#32, 0x10#32, 0x19#32, 0x01C36AF0#32, 0#32] := by decide +kernel
theorem test_container_find_flags :
    flagsAfter (exec .containerFind (busy (container 0x49454E44#32))) = some (0x0000000A#32, 0#32)
    ∧ flagsAfter (exec .containerFind (busy (p3 0x65 36 0x49454E44))) = some (0x00000306#32, 0x00000019#32) := by
  decide +kernel
/-- Section 4: a soft miss with one record; one trailing byte. -/
theorem test_chunk_find_soft_miss :
    resAfter (exec .chunkFind (st 0x100 12 0x12345678#32 (bytesAt 0x100 iend)))
      = some [0#32, 0x49454E44#32, 0x108#32, 0x10C#32, 0xAE426082#32, 1#32] := by decide +kernel
theorem test_chunk_find_trailing_byte :
    flagsAfter (exec .chunkFind (busy (st 0x100 13 0x12345678#32 (bytesAt 0x100 iend))))
      = some (0x00000306#32, 0x0000010C#32) := by decide +kernel

/-! ### Register operations -/

/-- Section 6: what a register reads as after reset. -/
theorem test_reads_after_reset :
    readAfter (exec .rdId State.reset) = some 0x434B4631#32
    ∧ readAfter (exec .rdBufSize State.reset) = some 0x00010000#32
    ∧ readAfter (exec .rdCrcState State.reset) = some 0xFFFFFFFF#32
    ∧ readAfter (exec .rdCrcValue State.reset) = some 0x00000000#32
    ∧ readAfter (exec .rdAdlerValue State.reset) = some 0x00000001#32 := by decide
/-- The order of the fields in each of six reads, and the ports (R251, R209 to R214, R259, R261, R264). -/
theorem test_reads_of_fields :
    let s : State := { st 1 2 3 [] with
      res := ⟨4, 5, 6, 7, 8, 9⟩, errInfo := 10, bufAddr := 11, readData := 99 }
    [Instr.rdArg0, .rdArg1, .rdArg2, .rdResLen, .rdResTag, .rdResData, .rdResNext, .rdResCrc, .rdResCount,
        .rdErrInfo, .rdBufAddr, .rdCmd, .rdCrcData8, .rdCrcData32, .rdAdlerData8, .rdAdlerData32].map
      (fun i => readAfter (exec i s))
      = [1, 2, 3, 4, 5, 6, 7, 8, 9, 10, 11, 0, 0, 0, 0, 0].map some := by decide
/-- R246 and R247: bits 2:0 are stored. -/
theorem test_ctrl :
    (after (exec (.wrCtrl 0x7FFFFFFF#32) State.reset)).bind (fun t => readAfter (exec .rdCtrl t))
      = some 0x00000007#32 := by decide
/-- R302: a soft reset. -/
theorem test_soft_reset :
    (after (exec (.wrCtrl 0x80000007#32) { st 1 2 3 (bytesAt 5 [0xAA#8]) with crcState := 7 })).map
      (fun t => (t.ctrl.word, t.arg0, t.crcState, t.mem)) = some (0#32, 0#32, 0xFFFFFFFF#32, [(5, 0xAA#8)]) := by decide
/-- R303: the write set of an aborted CRC_STORE is unwritten again. -/
theorem test_abort :
    (after (exec (.wrCtrl 0x80000000#32) { busy (st 4 0 0 (bytesAt 3 sig)) with curCmd := 3#32 })).map
      (fun t => (t.status.busy, t.mem))
      = some (false, [(3, 0x89#8), (8, 0x0A#8), (9, 0x1A#8), (10, 0x0A#8)]) := by decide
/-- R249. -/
theorem test_wr_status :
    (after (exec (.wrStatus 0x00000004#32) { State.reset with
      status := { done := true, err := true, errCode := .invalidChecksum } })).map (·.status.word)
      = some 0x00000002#32 := by decide
theorem test_rd_status :
    readAfter (exec .rdStatus { State.reset with
      status := { done := true, err := true, accErr := true, errCode := .range } }) = some 0x00000516#32 := by decide
/-- R240, and R262: a second CMD write while busy. -/
theorem test_wr_cmd :
    (after (exec (.wrCmd 0x00000102#32) State.reset)).map (fun t => (t.curCmd, t.status.word))
      = some (0x00000102#32, 0x00000001#32) := by decide
theorem test_wr_cmd_busy :
    (after (exec (.wrCmd 0x00000102#32) (busy State.reset))).map (fun t => (t.curCmd, t.status.word))
      = some (0x00000000#32, 0x00000011#32) := by decide
/-- R252, R254, R142, R144, R170. -/
theorem test_wr_args :
    (after (exec (.wrArg0 5) State.reset)).map (fun t => (t.arg0, t.arg1, t.arg2)) = some (5, 0, 0)
    ∧ (after (exec (.wrArg1 5) State.reset)).map (fun t => (t.arg0, t.arg1, t.arg2)) = some (0, 5, 0)
    ∧ (after (exec (.wrArg2 5) State.reset)).map (fun t => (t.arg0, t.arg1, t.arg2)) = some (0, 0, 5)
    ∧ (after (exec (.wrBufAddr 5) State.reset)).map (·.bufAddr) = some 5 := by decide
theorem test_wr_accumulators :
    (after (exec (.wrCrcState 0x340BC6D9#32) State.reset)).map (·.crcState) = some 0x340BC6D9#32
    ∧ (after (exec (.wrCrcValue 0xCBF43926#32) State.reset)).map (·.crcState) = some 0x340BC6D9#32
    ∧ (after (exec (.wrAdlerValue 0xFFFFFFFF#32) State.reset)).map (·.adlerValue) = some 0xFFFFFFFF#32 := by decide
/-- R145, R146; section 2, steps 13 to 15. -/
theorem test_wr_crc_data8 :
    (after (exec (.wrCrcData8 0x161#32) State.reset)).map (·.crcState) = some 0x174841BC#32 := by decide
theorem test_wr_crc_data32 :
    (after (exec (.wrCrcData32 0x01000000#32) State.reset)).map (·.crcState) = some 0xA9BC1075#32
    ∧ (after (exec (.wrCrcData32 0xFFFFFFFF#32) State.reset)).map (·.crcState) = some 0#32 := by decide +kernel
/-- R171, R172; section 3. -/
theorem test_wr_adler_data8 :
    (after (exec (.wrAdlerData8 0x61#32) State.reset)).map (·.adlerValue) = some 0x00620062#32 := by decide
theorem test_wr_adler_data32 :
    (after (exec (.wrAdlerData32 0x6C6C6568#32) State.reset)).bind
      (fun t => (after (exec (.wrAdlerData8 0x6F#32) t)).map (·.adlerValue)) = some 0x062C0215#32 := by decide
/-- R255: BUF_ADDR advances; at the end of the buffer nothing moves (section 5). -/
theorem test_wr_buf_data8 :
    (after (exec (.wrBufData8 1) { State.reset with bufAddr := 0xFFFF#32 })).map (fun t => (t.mem, t.bufAddr))
      = some ([(0xFFFF, 1#8)], 0x10000#32) := by decide
theorem test_wr_buf_data8_outside :
    (after (exec (.wrBufData8 2) { State.reset with bufAddr := 0x10000#32 })).map
      (fun t => (t.mem, t.bufAddr, t.status.word)) = some ([], 0x10000#32, 0x10#32) := by decide
/-- R257; section 5, the access that would cross the end. -/
theorem test_wr_buf_data32 :
    (after (exec (.wrBufData32 0x474E5089#32) State.reset)).map (fun t => (t.mem, t.bufAddr))
      = some ([(0, 0x89#8), (1, 0x50#8), (2, 0x4E#8), (3, 0x47#8)], 4#32) := by decide
theorem test_wr_buf_data32_outside :
    (after (exec (.wrBufData32 0x11223344#32) { State.reset with bufAddr := 0xFFFD#32 })).map
      (fun t => (t.mem, t.bufAddr, t.status.word)) = some ([], 0xFFFD#32, 0x10#32) := by decide
/-- R256, R258: after program P2. -/
theorem test_rd_buf_data8 :
    readAfter (exec .rdBufData8 { st 0 0 0 (bytesAt 0x100 iend) with bufAddr := 0x104#32 }) = some 0x49#32 := by decide
theorem test_rd_buf_data32 :
    readAfter (exec .rdBufData32 { st 0 0 0 (bytesAt 0x100 iend) with bufAddr := 0x104#32 })
      = some 0x444E4549#32 := by decide
/-- R260: writes of read-only registers, idle. -/
theorem test_read_only_writes :
    [Instr.wrId 1, .wrBufSize 1, .wrResLen 1, .wrResTag 1, .wrResData 1, .wrResNext 1, .wrResCrc 1, .wrResCount 1,
        .wrErrInfo 1].map (fun i => after (exec i State.reset)) = List.replicate 9 (some State.reset) := by decide
/-- R263: reserved offsets, busy. -/
theorem test_reserved_reads :
    [Instr.rdRsv034, .rdRsv04C, .rdRsv06C, .rdRsv070 1, .rdRsv080 1, .rdRsv100 1, .rdRsv200 1, .rdRsv400 1,
        .rdRsv800 1].map (fun i => (after (exec i { busy State.reset with readData := 7 })).map
          (fun t => (t.readData, t.status.accErr))) = List.replicate 9 (some (0#32, false)) := by decide
theorem test_reserved_writes :
    [Instr.wrRsv034 1, .wrRsv04C 1, .wrRsv06C 1, .wrRsv070 1 1, .wrRsv080 1 1, .wrRsv100 1 1, .wrRsv200 1 1,
        .wrRsv400 1 1, .wrRsv800 1 1].map (fun i => after (exec i (busy State.reset)))
      = List.replicate 9 (some (busy State.reset)) := by decide
/-- R262: a read while busy returns 0 and sets ACC_ERR. -/
theorem test_busy_read :
    (after (exec .rdArg0 (busy (st 5 0 0 [])))).map (fun t => (t.readData, t.status.word)) = some (0#32, 0x11#32) := by
  decide

/-! ### Steps, and where the next step takes its operation -/

theorem test_step_runs_command :
    (after (step (State.reset.withFetchWord 32 0x00000005))).map (fun t => (t.status.word, t.errInfo))
      = some (0x00000606#32, 5#32) := by decide
theorem test_step_runs_access :
    (after (step (State.reset.withFetchWord 48 0x0000ABCD1018))).map (·.arg2) = some 0x0000ABCD#32 := by decide
theorem test_step_refuses_outside :
    (after (step { State.reset with inputs := [.access (.read .w32 0x1000)] })).isNone = true := by decide
theorem test_step_power_on :
    (after (step { st 5 0 0 (bytesAt 0 sig) with inputs := [.powerOn] })).map (fun t => (t.arg0, t.mem))
      = some (0#32, []) := by decide
theorem test_irq :
    ({ State.reset with ctrl := { accIE := true }, status := { accErr := true } } : State).irq = true
    ∧ ({ State.reset with ctrl := { doneIE := true }, status := { accErr := true } } : State).irq = false := by decide
/-- A wait for IRQ ends when IRQ is 1, and holds the state while it is 0. -/
theorem test_wait_irq :
    (after (step { State.reset with
      inputs := [.waitIrq], ctrl := { doneIE := true }, status := { done := true } })).map (·.inputs) = some []
    ∧ (after (step { State.reset with inputs := [.waitIrq] })).map (·.inputs) = some [.waitIrq] := by decide
/-- The entries of the table that the source's examples name (S2). -/
theorem test_crc_table :
    crcTable 0x80#8 = 0xEDB88320#32 ∧ crcTable 0x01#8 = 0x77073096#32 ∧ crcTable 0xFF#8 = 0x2D02EF8D#32 := by decide

/-! ### Witnesses: for each statement with hypotheses, what meets them -/

theorem witness_DecodeOfEncode : (Instr.illegal 0x00000200#32).wf = true ∧ (Instr.wrRsv800 511 7).wf = true := by decide

theorem witness_EncodeOfDecode :
    decode (.command 0x00000109#32) = .ok .adlerBufI ∧ decode (.access (.write .w32 0xFFC 7)) = .ok (.wrRsv800 511 7) :=
  ⟨rfl, rfl⟩

/-- The clauses of IllegalWordsComplete: 0x05 and 0xFF are in no row, 0x101 and 0x108 set INIT where it is not allowed,
0x200 and 0x80000002 set a reserved bit; 0x15, 0x102 and 0x109 are in the map. -/
theorem witness_IllegalWordsComplete :
    let listed := fun w : Nat => w % 2 ^ 8 ∈
      [0x00, 0x01, 0x02, 0x03, 0x04, 0x08, 0x09, 0x0A, 0x0B, 0x10, 0x11, 0x12, 0x13, 0x14, 0x15]
    let initBad := fun w : Nat => w / 2 ^ 8 % 2 = 1 ∧ w % 2 ^ 8 ≠ 0x02 ∧ w % 2 ^ 8 ≠ 0x09
    (∀ w ∈ [0x05, 0xFF], ¬ listed w) ∧ (∀ w ∈ [0x101, 0x108], initBad w)
    ∧ (∀ w ∈ [0x200, 0x80000002], w / 2 ^ 9 ≠ 0)
    ∧ (∀ w ∈ [0x15, 0x102, 0x109], listed w ∧ ¬ initBad w ∧ w / 2 ^ 9 = 0) := by decide

/-- Each reason for a refusal, and the last offset of the frame; the same by host address. -/
theorem witness_OutsideAccessesRefused :
    (∀ a ∈ [HostAccess.read .w8 0, .read .w16 0, .read .w32 1, .write .w32 0xFFE 5, .write .w32 0x1000 5, .read .w32 0xFFC],
      { State.reset with inputs := [.access a] }.engineTurn = false)
    ∧ ∀ b : BusAccess, { State.reset with inputs := [.bus b] }.engineTurn = false :=
  ⟨by decide, fun _ => rfl⟩

theorem witness_StepRunsDecodedInstruction :
    (busy { State.reset with curCmd := 1 }).engineTurn = true ∧ decode (.command 1) = .ok .crcReset
    ∧ { State.reset with inputs := [.access (.read .w32 0xFFC)] }.engineTurn = false
    ∧ decode (.access (.read .w32 0xFFC)) = .ok (.rdRsv800 511)
    ∧ { State.reset with inputs := [.bus (.read .w32 (Config.regBase + 0xFFC))] }.engineTurn = false
    ∧ { State.reset with inputs := [.bus (.write .w32 (Config.regBase + 0x010) 7)] }.engineTurn = false
    ∧ decode (.access (.write .w32 0x010 7)) = .ok (.wrArg0 7)
    ∧ { State.reset with inputs := [.waitIrq] }.engineTurn = false :=
  ⟨rfl, rfl, rfl, rfl, rfl, rfl, rfl, rfl⟩

theorem witness_PollEndsAfterCompletion :
    let s := { busy State.reset with inputs := [.poll], wait := 3, curCmd := 1 }
    s.status.busy = true ∧ s.inputs = [.poll] := by decide

theorem witness_StepAnswersInsideInterface :
    (∀ a rest, { State.reset with inputs := [.access (.read .w32 0xFFC)] }.inputs = .access a :: rest →
      ∃ i, decode (.access a) = .ok i)
    ∧ ∀ b rest, { State.reset with inputs := [.bus (HostAccess.read .w32 0xFFC).onBus] }.inputs = .bus b :: rest →
      ∃ i, decodeBus b = .ok i := by
  refine ⟨?_, ?_⟩
  · rintro a rest ⟨⟩
    exact ⟨_, rfl⟩
  · rintro b rest ⟨⟩
    exact ⟨.rdRsv800 511, by simp [HostAccess.onBus, decodeBus, BusAccess.inFrame, registerOffset, registerAddress,
      decodeAccess, portViolation, decodeRead, decodeReservedRead]⟩

/-- An access by host address is the access at its offset from REG_BASE, and one below REG_BASE none (00_scope.md R7). -/
theorem test_bus_address :
    (BusAccess.write .w32 (Config.regBase + 0x014) 9).inFrame = some (.write .w32 0x014 9)
    ∧ ∀ a, a < Config.regBase → (BusAccess.read .w32 a).inFrame = none := by
  refine ⟨by simp [BusAccess.inFrame, registerOffset], fun a h => ?_⟩
  simp only [BusAccess.inFrame, registerOffset, if_neg (Nat.not_le.2 h), Option.map_none]

/-- A busy state with a written byte at the end of the smallest buffer, and a step from it. -/
theorem witness_StepKeepsInvariant :
    let s := { busy (st 0 0 0 [(15, 7#8)]) with bufSize := 16#32, inputs := [.access (.read .w32 0x010)], wait := 1 }
    s.Inv ∧ ∃ t, step s = .next t :=
  ⟨⟨by decide, by decide, by decide, by decide, by decide, by decide, by decide, by decide⟩, _, rfl⟩

theorem witness_StepKeepsBufSize :
    ∃ t, step { State.reset with inputs := [.access (.write .w32 0x01C 5)] } = .next t := ⟨_, rfl⟩

/-- Parts of all three kinds; the buffer part ends at the end of the buffer; an empty part there. -/
theorem witness_CrcFeedsInAnyChunking :
    let s := st 0 0 0 (bytesAt 0xFFFB hello)
    s.status.busy = false
    ∧ ∀ f ∈ [Feed.buf 0xFFFB hello, .data8 0x161, .data32 0x34333231, .buf 0x10000 []], f.ready s = true := by decide

theorem witness_AdlerFeedsInAnyChunking :
    let s := st 0 0 0 (bytesAt 0xFFFB hello)
    s.status.busy = false
    ∧ ∀ f ∈ [Feed.buf 0xFFFB hello, .data8 0x161, .data32 0x34333231, .buf 0x10000 []], f.ready s = true := by decide

/-- In range at the end of the buffer, with bytes and with none. -/
theorem witness_CrcBufCompletes :
    ∀ s ∈ [st 0xFFF7 9 0 [], st 0x10000 0 0 []], s.arg0.toNat + s.arg1.toNat ≤ s.bufBytes := by decide

theorem witness_AdlerBufCompletes :
    ∀ s ∈ [st 0xFFF7 9 0 [], st 0x10000 0 0 []], s.arg0.toNat + s.arg1.toNat ≤ s.bufBytes := by decide

theorem witness_TrailerStoresComplete : (st 0xFFFC 0 0 []).argAddr + 4 ≤ (st 0xFFFC 0 0 []).bufBytes := by decide

/-- A trailer that is the exposed CRC and not ADLER_VALUE, and one the other way round. -/
theorem witness_TrailerChecksComplete :
    let s := { st 0xFFFC 0 0 (bytesAt 0xFFFC [0xCB#8, 0xF4#8, 0x39#8, 0x26#8]) with crcState := 0x340BC6D9#32 }
    let t := { st 0xFFFC 0 0 (bytesAt 0xFFFC [0x00#8, 0x00#8, 0x00#8, 0x01#8]) with crcState := 0x340BC6D9#32 }
    s.arg0.toNat + 4 ≤ s.bufBytes ∧ s.mem.holds s.arg0.toNat [0xCB#8, 0xF4#8, 0x39#8, 0x26#8] = true
    ∧ (0xCB#8 ++ 0xF4#8 ++ 0x39#8 ++ 0x26#8 : Word) = ~~~s.crcState
    ∧ (0xCB#8 ++ 0xF4#8 ++ 0x39#8 ++ 0x26#8 : Word) ≠ s.adlerValue
    ∧ t.mem.holds t.arg0.toNat [0x00#8, 0x00#8, 0x00#8, 0x01#8] = true
    ∧ (0x00#8 ++ 0x00#8 ++ 0x00#8 ++ 0x01#8 : Word) ≠ ~~~t.crcState
    ∧ (0x00#8 ++ 0x00#8 ++ 0x00#8 ++ 0x01#8 : Word) = t.adlerValue
    ∧ t.arg0.toNat + 4 ≤ t.bufBytes
    ∧ Memory.admits (bytesAt 0xFFFC [0xCB#8]) 0xFFFC [0xCB#8, 0xF4#8, 0x39#8, 0x26#8] = true := by decide

theorem witness_StoredTrailersCheck : (st 0xFFFC 0 0 []).arg0.toNat + 4 ≤ (st 0xFFFC 0 0 []).bufBytes := by decide

theorem witness_AdlerSeedsUnreducedUntilFed : State.reset.status.busy = false ∧ [0x00#8] ≠ ([] : List Byte) := by decide

theorem witness_SigWriteCompletes : (st 0xFFF8 0 0 []).argAddr + 8 ≤ (st 0xFFF8 0 0 []).bufBytes := by decide

/-- The signature, and bytes that differ from it in one bit. -/
theorem witness_SigCheckCompletes :
    ∀ bs ∈ [sig, 0x88#8 :: sig.tail],
      let s := st 0xFFF8 0 0 (bytesAt 0xFFF8 bs)
      s.arg0.toNat + 8 ≤ s.bufBytes ∧ bs.length = 8 ∧ s.mem.holds s.arg0.toNat bs = true
        ∧ Memory.admits (bytesAt 0xFFF9 sig.tail) 0xFFF8 bs = true := by decide

/-- "hello" at 16 for a record at 8 (program P3); no data for a record that ends at the end of the buffer; and two bytes of
data for such a record, the first of them never written. -/
theorem witness_ChunkBuildFramesRecord :
    (∀ s ∈ [st 8 5 0x74655374#32 (bytesAt 16 hello)],
      s.arg1.toNat = hello.length ∧ hello.length ≤ 0x7FFFFFFF ∧ s.argAddr + 12 + hello.length ≤ s.bufBytes
        ∧ s.mem.holds (s.argAddr + 8) hello = true)
    ∧ (∀ s ∈ [st 0xFFF4 0 0x49454E44#32 []],
      s.arg1.toNat = ([] : List Byte).length ∧ s.argAddr + 12 + ([] : List Byte).length ≤ s.bufBytes
        ∧ s.mem.holds (s.argAddr + 8) [] = true)
    ∧ (∀ s ∈ [st 0xFFF2 2 0x74655374#32 (bytesAt 0xFFFB [0x69#8])],
      s.arg1.toNat ≤ 0x7FFFFFFF ∧ s.argAddr + 12 + s.arg1.toNat ≤ s.bufBytes
        ∧ [0x68#8, 0x69#8].length = s.arg1.toNat ∧ s.mem.admits (s.argAddr + 8) [0x68#8, 0x69#8] = true) := by decide

theorem witness_BuiltRecordChecks :
    let s := st 8 5 0x74655374#32 (bytesAt 16 hello)
    s.arg1.toNat = hello.length ∧ hello.length ≤ 0x7FFFFFFF ∧ s.argAddr + 12 + hello.length ≤ s.bufBytes
      ∧ s.mem.holds (s.argAddr + 8) hello = true := by decide

/-- The records of section 4 as data. -/
def recIend : Rec := { tag := 0x49454E44#32, data := [] }
def recTeSt : Rec := { tag := 0x74655374#32, data := [0x68#8, 0x69#8] }

theorem test_record_bytes : recIend.bytes = iend ∧ recTeSt.bytes = teSt := by decide +kernel

theorem witness_ChunkCheckAcceptsRecord :
    let s := st 0xFFF4 12 0 (bytesAt 0xFFF4 iend)
    recIend.legal = true ∧ recIend.size ≤ s.arg1.toNat ∧ s.arg0.toNat + s.arg1.toNat ≤ s.bufBytes
      ∧ s.mem.holds s.arg0.toNat recIend.bytes = true := by decide +kernel

/-- The empty "IEND" record as a check reads it, with CRC field `c`; and a record with one byte of data. -/
def readIend (c : Word) : RecordRead :=
  { len := 0#32, tag := 0x49454E44#32, body := [0x49#8, 0x45#8, 0x4E#8, 0x44#8], stored := c }
def readOne : RecordRead :=
  { len := 1#32, tag := 0#32, body := [0x00#8, 0x00#8, 0x00#8, 0x00#8, 0x00#8], stored := 0#32 }

/-- Over bytes of which only the tag was written: the header alone fits, and what is read there may be a record that
passes, one with another CRC, or one too long. A length that was written and is too large is read so. -/
theorem witness_ChunkCheckAcceptsRecord_reads :
    let s := st 0xFFF4 12 0 (bytesAt 0xFFF8 [0x49#8, 0x45#8, 0x4E#8, 0x44#8])
    s.arg0.toNat + s.arg1.toNat ≤ s.bufBytes ∧ 12 ≤ s.arg1.toNat
    ∧ (readIend 0xAE426082#32).Admitted s.mem s.arg0.toNat ∧ (readIend 0#32).Admitted s.mem s.arg0.toNat
    ∧ (readIend 0#32).len.toNat ≤ 0x7FFFFFFF ∧ (readIend 0#32).size ≤ s.arg1.toNat
    ∧ crc32 (readIend 0#32).body = 0xAE426082#32
    ∧ readOne.Admitted [] s.arg0.toNat ∧ readOne.len.toNat ≤ 0x7FFFFFFF ∧ s.arg1.toNat < readOne.size
    ∧ Memory.holds (bytesAt 0xFFF4 [0x80#8, 0x00#8, 0x00#8, 0x00#8]) 0xFFF4 (bytesBE 0x80000000#32) = true := by
  simp only [RecordRead.Admitted]
  decide +kernel

/-- One byte short of a header; the smallest length that is too large; a record that is one byte too long. -/
theorem witness_ChunkCheckHeaderErrors :
    (∀ s ∈ [st 0xFFF5 11 0 []],
      s.arg0.toNat + s.arg1.toNat ≤ s.bufBytes ∧ s.arg1.toNat < 12)
    ∧ (∀ s ∈ [st 0xFFF4 12 0 (bytesAt 0xFFF4 [0x80#8, 0x00#8, 0x00#8, 0x00#8])],
      s.arg0.toNat + s.arg1.toNat ≤ s.bufBytes ∧ 12 ≤ s.arg1.toNat
        ∧ s.mem.holds s.arg0.toNat [0x80#8, 0x00#8, 0x00#8, 0x00#8] = true
        ∧ 0x7FFFFFFF < (0x80#8 ++ 0x00#8 ++ 0x00#8 ++ 0x00#8 : Word).toNat)
    ∧ (∀ s ∈ [st 0xFFF4 12 0 (bytesAt 0xFFF4 [0x00#8, 0x00#8, 0x00#8, 0x01#8])],
      s.arg0.toNat + s.arg1.toNat ≤ s.bufBytes ∧ 12 ≤ s.arg1.toNat
        ∧ s.mem.holds s.arg0.toNat [0x00#8, 0x00#8, 0x00#8, 0x01#8] = true
        ∧ (0x00#8 ++ 0x00#8 ++ 0x00#8 ++ 0x01#8 : Word).toNat ≤ 0x7FFFFFFF
        ∧ s.arg1.toNat < 12 + (0x00#8 ++ 0x00#8 ++ 0x00#8 ++ 0x01#8 : Word).toNat) := by decide

/-- Walks that come to the cut record of program P3 step g behind "teSt", and to one right behind the signature or at
ARG0. -/
theorem witness_ChunkCheckHeaderErrors_walk_cut :
    (p3 0x65 36 0x49454E44).WalkReaches .containerFind [{ tag := 0x74655374#32, data := hello }] 0x19
    ∧ (st 0xFFED 19 0 (bytesAt 0xFFED sig)).WalkReaches .containerFind [] 0xFFF5
    ∧ (st 0xFFFF 1 0 []).WalkReaches .chunkFind [] 0xFFFF
    ∧ (∀ x ∈ [(p3 0x65 36 0x49454E44, 0x19), (st 0xFFED 19 0 (bytesAt 0xFFED sig), 0xFFF5), (st 0xFFFF 1 0 [], 0xFFFF)],
      x.1.arg0.toNat + x.1.arg1.toNat < x.2 + 12) :=
  ⟨⟨.inr rfl, by decide, by decide, by decide +kernel, by decide, by decide⟩,
    ⟨.inr rfl, by decide, by decide, by decide, by decide, by decide⟩,
    ⟨.inl rfl, by decide, by decide, by decide, by decide, by decide⟩, by decide⟩

/-- Walks behind "IEND" to a header that ends with the region: the smallest length that is too large, and one byte too
long. -/
theorem witness_ChunkCheckHeaderErrors_walk_length :
    ∀ b ∈ [([0x80#8, 0x00#8, 0x00#8, 0x00#8], true), ([0x00#8, 0x00#8, 0x00#8, 0x01#8], false)],
      let s := st 0xFFE8 24 0 (bytesAt 0xFFE8 (iend ++ b.1))
      s.WalkReaches .chunkFind [recIend] 0xFFF4 ∧ 0xFFF4 + 12 ≤ s.arg0.toNat + s.arg1.toNat
        ∧ s.mem.holds 0xFFF4 b.1 = true
        ∧ (b.2 = true → 0x7FFFFFFF < (0x80#8 ++ 0x00#8 ++ 0x00#8 ++ 0x00#8 : Word).toNat)
        ∧ (b.2 = false → (0x00#8 ++ 0x00#8 ++ 0x00#8 ++ 0x01#8 : Word).toNat ≤ 0x7FFFFFFF
          ∧ s.arg0.toNat + s.arg1.toNat < 0xFFF4 + 12 + (0x00#8 ++ 0x00#8 ++ 0x00#8 ++ 0x01#8 : Word).toNat) := by
  intro b hb
  simp only [List.mem_cons, List.not_mem_nil, or_false] at hb
  rcases hb with rfl | rfl
  · exact ⟨⟨.inl rfl, by decide, by decide, by decide +kernel, by decide, by decide⟩, by decide, by decide, by decide,
      by decide⟩
  · exact ⟨⟨.inl rfl, by decide, by decide, by decide +kernel, by decide, by decide⟩, by decide, by decide, by decide,
      by decide⟩

/-- Program P3 step d, the record with the target tag right behind the signature, and the last record of a region with
another CRC behind "IEND". -/
theorem witness_ChunkCheckRejectsBadCrc_walk :
    (let s := p3 0x45 37 0x74655374
     let r : Rec := { tag := 0x74655374#32, data := [0x68#8, 0x45#8, 0x6C#8, 0x6C#8, 0x6F#8] }
     s.WalkReaches .containerFind [] 8 ∧ r.legal = true ∧ 8 + r.size ≤ s.arg0.toNat + s.arg1.toNat
      ∧ 0xA1F1C5CE#32 ≠ r.crc
      ∧ s.mem.holds 8 (bytesBE (BitVec.ofNat 32 r.data.length) ++ (bytesBE r.tag ++ (r.data ++ bytesBE 0xA1F1C5CE#32)))
        = true)
    ∧ (let s := st 0xFFE8 24 0 (bytesAt 0xFFE8 (iend ++ iend.dropLast ++ [0x83#8]))
       s.WalkReaches .chunkFind [recIend] 0xFFF4 ∧ recIend.legal = true
        ∧ 0xFFF4 + recIend.size ≤ s.arg0.toNat + s.arg1.toNat ∧ 0xAE426083#32 ≠ recIend.crc
        ∧ s.mem.holds 0xFFF4 (bytesBE (BitVec.ofNat 32 recIend.data.length)
            ++ (bytesBE recIend.tag ++ (recIend.data ++ bytesBE 0xAE426083#32))) = true) :=
  ⟨⟨⟨.inr rfl, by decide, by decide, by decide +kernel, by decide, by decide⟩, by decide, by decide, by decide +kernel,
      by decide +kernel⟩,
    ⟨⟨.inl rfl, by decide, by decide, by decide +kernel, by decide, by decide⟩, by decide, by decide, by decide +kernel,
      by decide +kernel⟩⟩

theorem witness_ChunkCheckRejectsBadCrc :
    let s := st 0xFFF4 12 0 (bytesAt 0xFFF4 (iend.dropLast ++ [0x83#8]))
    recIend.legal = true ∧ recIend.size ≤ s.arg1.toNat ∧ s.arg0.toNat + s.arg1.toNat ≤ s.bufBytes
      ∧ 0xAE426083#32 ≠ recIend.crc
      ∧ s.mem.holds s.arg0.toNat
          (bytesBE (BitVec.ofNat 32 recIend.data.length) ++ (bytesBE recIend.tag ++ (recIend.data ++ bytesBE 0xAE426083#32)))
        = true := by decide +kernel

/-- The container of section 4: "teSt" after "IEND", and "IEND" first. -/
theorem witness_ContainerFindFindsFirstMatch :
    ∀ p ∈ [([recIend], recTeSt), (([] : List Rec), recIend)],
      let s := container p.2.tag
      (∀ q ∈ p.1, q.legal = true ∧ q.tag ≠ s.arg2) ∧ p.2.legal = true ∧ p.2.tag = s.arg2
        ∧ s.arg0.toNat + s.arg1.toNat ≤ s.bufBytes ∧ 8 + recordSize (p.1 ++ [p.2]) ≤ s.arg1.toNat
        ∧ s.mem.holds s.arg0.toNat (signature ++ recordBytes (p.1 ++ [p.2])) = true := by decide +kernel

/-- The container with an absent tag, and one of the signature alone. -/
theorem witness_ContainerFindSoftMiss :
    ∀ p ∈ [([recIend, recTeSt], container 0x12345678#32), (([] : List Rec), st 0 8 0 (bytesAt 0 sig))],
      (∀ q ∈ p.1, q.legal = true ∧ q.tag ≠ p.2.arg2) ∧ p.2.arg0.toNat + p.2.arg1.toNat ≤ p.2.bufBytes
        ∧ 8 + recordSize p.1 = p.2.arg1.toNat
        ∧ p.2.mem.holds p.2.arg0.toNat (signature ++ recordBytes p.1) = true := by decide +kernel

theorem witness_ChunkFindFindsFirstMatch :
    ∀ p ∈ [([recIend], recTeSt), (([] : List Rec), recIend)],
      let s := { container p.2.tag with arg0 := 8, arg1 := 26 }
      (∀ q ∈ p.1, q.legal = true ∧ q.tag ≠ s.arg2) ∧ p.2.legal = true ∧ p.2.tag = s.arg2
        ∧ s.arg0.toNat + s.arg1.toNat ≤ s.bufBytes ∧ recordSize (p.1 ++ [p.2]) ≤ s.arg1.toNat
        ∧ s.mem.holds s.arg0.toNat (recordBytes (p.1 ++ [p.2])) = true := by decide +kernel

theorem witness_ChunkFindSoftMiss :
    ∀ p ∈ [([recIend, recTeSt], { container 0x12345678#32 with arg0 := 8, arg1 := 26 }),
        (([] : List Rec), st 0x10000 0 0 [])],
      (∀ q ∈ p.1, q.legal = true ∧ q.tag ≠ p.2.arg2) ∧ p.2.arg0.toNat + p.2.arg1.toNat ≤ p.2.bufBytes
        ∧ recordSize p.1 = p.2.arg1.toNat
        ∧ p.2.mem.holds p.2.arg0.toNat (recordBytes p.1) = true := by decide +kernel

theorem witness_WalkBoundAndOutcome :
    (∃ t, exec .chunkFind (container 0) = .next t) ∧ ∃ t, exec .containerFind (container 0) = .next t :=
  ⟨⟨_, rfl⟩, _, rfl⟩

/-- Over bytes of which only two tags were written: CHUNK_FIND's walk from 0 passes a record of 12 bytes and is at the end of
its region, one byte short of a header, or at a record that passes and has the target tag, or one with another CRC.
CONTAINER_FIND in its shortest region, the signature not written whole. -/
theorem witness_WalkBoundAndOutcome_reads :
    let m := Memory.write (bytesAt 4 [0x49#8, 0x45#8, 0x4E#8, 0x44#8]) 16 [0x49#8, 0x45#8, 0x4E#8, 0x44#8]
    let q := readIend 0xAE426082#32
    (∀ n ∈ [12, 23, 24],
      (st 0 (BitVec.ofNat 32 n) 0#32 m).arg0.toNat + (st 0 (BitVec.ofNat 32 n) 0#32 m).arg1.toNat
          ≤ (st 0 (BitVec.ofNat 32 n) 0#32 m).bufBytes
        ∧ (walkPrefix .chunkFind).length ≤ (st 0 (BitVec.ofNat 32 n) 0#32 m).arg1.toNat
        ∧ q.Admitted m 0 ∧ q.Passes 0 n ∧ q.tag ≠ 0#32 ∧ 0 + q.size = 12)
    ∧ q.Admitted m 12 ∧ q.Passes 12 24 ∧ (readIend 0#32).Admitted m 12 ∧ ¬ (readIend 0#32).Passes 12 24
    ∧ (∀ s ∈ [st 0xFFF8 8 0 (bytesAt 0xFFF9 sig.tail)],
      s.arg0.toNat + s.arg1.toNat ≤ s.bufBytes ∧ (walkPrefix .containerFind).length ≤ s.arg1.toNat
        ∧ s.mem.admits s.arg0.toNat (walkPrefix .containerFind) = true
        ∧ s.mem.admits s.arg0.toNat (0x88#8 :: sig.tail) = true) := by
  simp only [RecordRead.Admitted, RecordRead.Passes]
  decide +kernel

theorem witness_PassesAll :
    PassesAll (bytesAt 4 [0x49#8, 0x45#8, 0x4E#8, 0x44#8]) 0#32 12 0 [readIend 0xAE426082#32] 12 := by
  simp only [PassesAll, RecordRead.Admitted, RecordRead.Passes]
  decide +kernel

/-- Each clause one byte past the end, the sum that would wrap in 32 bits, and CHUNK_BUILD's first bad length. -/
theorem witness_OperandErrorsTaken :
    (∀ s ∈ [st 0xFFFF 2 0 [], st 0x10001 0 0 [], st 0xFFFFFFFF#32 0xFFFFFFFF#32 0 []],
      s.bufBytes < s.arg0.toNat + s.arg1.toNat)
    ∧ (st 0 0 0 []).bufBytes < (st 0xFFFD 0 0 []).arg0.toNat + 4
    ∧ (st 0 0 0 []).bufBytes < (st 0xFFF9 0 0 []).arg0.toNat + 8
    ∧ ((st 0xFFF5 0 0 []).arg1.toNat ≤ 0x7FFFFFFF
      ∧ (st 0 0 0 []).bufBytes < (st 0xFFF5 0 0 []).arg0.toNat + 12 + (st 0xFFF5 0 0 []).arg1.toNat)
    ∧ 0x7FFFFFFF < (st 0x100 0x80000000#32 0 []).arg1.toNat := by decide

theorem witness_ContainerFindBadSignature :
    (∀ s ∈ [st 0 7 0 []],
      s.arg0.toNat + s.arg1.toNat ≤ s.bufBytes ∧ s.arg1.toNat < 8)
    ∧ (∀ s ∈ [st 0 8 0 (bytesAt 0 (0x88#8 :: sig.tail))],
      s.arg0.toNat + s.arg1.toNat ≤ s.bufBytes ∧ 8 ≤ s.arg1.toNat ∧ (0x88#8 :: sig.tail).length = 8
        ∧ 0x88#8 :: sig.tail ≠ signature ∧ s.mem.holds s.arg0.toNat (0x88#8 :: sig.tail) = true)
    ∧ (∀ s ∈ [st 0xFFF8 8 0 (bytesAt 0xFFF9 sig.tail)],
      s.arg0.toNat + s.arg1.toNat ≤ s.bufBytes ∧ 8 ≤ s.arg1.toNat ∧ s.mem.admits s.arg0.toNat signature = true
        ∧ s.mem.admits s.arg0.toNat (0x88#8 :: sig.tail) = true) := by decide

theorem witness_ErrorsArePrecise :
    isCommand .crcStore = true ∧ (st 0xFFFD 0 0 []).status.err = false
    ∧ ∃ t, exec .crcStore (st 0xFFFD 0 0 []) = .next t ∧ t.status.err = true :=
  ⟨rfl, rfl, _, rfl, rfl⟩

theorem witness_CommandsCompleteAndKeepOperands :
    isCommand .chunkFind = true ∧ isCommand (.illegal 5) = true := by decide

/-- For the clauses: a CRC command, a rolling checksum command, a walk for the reading half of both and for the buffer, a
command that is no frame command, and a frame command that sets no FOUND. -/
theorem witness_EnginesDoNotTouchEachOther :
    (∃ t, exec .crcBuf State.reset = .next t) ∧ (∃ t, exec .adlerBuf State.reset = .next t)
    ∧ (∃ t, exec .chunkFind State.reset = .next t) ∧ (∃ t, exec .chunkCheck State.reset = .next t)
    ∧ (∀ v, Instr.crcBuf ∉
        [Instr.adlerReset, .adlerBuf, .adlerBufI, .wrAdlerValue v, .wrAdlerData8 v, .wrAdlerData32 v,
          .adlerStore, .adlerCheck, .rdAdlerValue])
    ∧ (∀ v, Instr.adlerBuf ∉
        [Instr.crcReset, .crcBuf, .crcBufI, .wrCrcState v, .wrCrcValue v, .wrCrcData8 v, .wrCrcData32 v,
          .crcStore, .crcCheck, .rdCrcState, .rdCrcValue])
    ∧ (∀ v, Instr.chunkFind ∉
        [Instr.adlerReset, .adlerBuf, .adlerBufI, .wrAdlerValue v, .wrAdlerData8 v, .wrAdlerData32 v,
          .adlerStore, .adlerCheck, .rdAdlerValue])
    ∧ (∀ v, Instr.chunkFind ∉ [Instr.crcStore, .adlerStore, .sigWrite, .chunkBuild, .wrBufData8 v, .wrBufData32 v])
    ∧ isFrame .sigCheck = false ∧ Instr.chunkCheck ≠ .containerFind ∧ Instr.chunkCheck ≠ .chunkFind :=
  ⟨⟨_, rfl⟩, ⟨_, rfl⟩, ⟨_, rfl⟩, ⟨_, rfl⟩, fun v => by simp, fun v => by simp, fun v => by simp, fun v => by simp,
    rfl, by simp, by simp⟩

/-- Idle: the one hypothesis of the statements about accesses of an idle block. -/
theorem witness_IdleReadsReturnRegisters : State.reset.status.busy = false := rfl
theorem witness_IdleWritesStore : State.reset.status.busy = false := rfl
theorem witness_WriteCmdStarts : State.reset.status.busy = false := rfl
theorem witness_CrcValueSeedsResume : State.reset.status.busy = false := rfl

theorem witness_DataPortsFeed :
    State.reset.status.busy = false ∧ (0x34333231#32 : Word) = 0x34#8 ++ 0x33#8 ++ 0x32#8 ++ 0x31#8 := by decide

theorem witness_ReadOnlyWritesIgnored :
    State.reset.status.busy = false ∧ (busy State.reset).status.busy = true := by decide

/-- The two holes, and both ends of the reserved space. -/
theorem witness_ReservedSpaceInert :
    ∀ off ∈ [0x034, 0x04C, 0x06C, 0xFFC],
      off % 4 = 0 ∧ off ≤ 0xFFC ∧ (off = 0x034 ∨ off = 0x04C ∨ 0x06C ≤ off) := by decide

/-- The last byte and the last word of the buffer. -/
theorem witness_WindowReadsComplete :
    State.reset.status.busy = false
    ∧ ({ State.reset with bufAddr := 0xFFFF#32 } : State).bufAddr.toNat < State.reset.bufBytes
    ∧ ({ State.reset with bufAddr := 0xFFFC#32 } : State).bufAddr.toNat + 4 ≤ State.reset.bufBytes := by decide

theorem witness_WindowWritesComplete :
    State.reset.status.busy = false
    ∧ ({ State.reset with bufAddr := 0xFFFF#32 } : State).bufAddr.toNat < State.reset.bufBytes
    ∧ ({ State.reset with bufAddr := 0xFFFC#32 } : State).bufAddr.toNat + 4 ≤ State.reset.bufBytes
    ∧ (0x474E5089#32 : Word) = 0x47#8 ++ 0x4E#8 ++ 0x50#8 ++ 0x89#8 := by decide

/-- The first byte past the buffer, and a word that would cross its end. -/
theorem witness_WindowOutOfRange :
    State.reset.status.busy = false
    ∧ State.reset.bufBytes ≤ ({ State.reset with bufAddr := 0x10000#32 } : State).bufAddr.toNat
    ∧ State.reset.bufBytes < ({ State.reset with bufAddr := 0xFFFD#32 } : State).bufAddr.toNat + 4 := by decide

theorem witness_WindowWordsRoundTrip :
    State.reset.status.busy = false
    ∧ ({ State.reset with bufAddr := 0xFFFC#32 } : State).bufAddr.toNat + 4 ≤ State.reset.bufBytes := by decide

theorem witness_WriteCtrlStoresEnables : (0x7FFFFFFF#32 : Word).toNat < 2 ^ 31 := by decide

theorem witness_WriteStatusClears :
    (0x16#32 : Word).toNat / 2 % 2 = 1 ∧ (0x16#32 : Word).toNat / 4 % 2 = 1 ∧ (0x16#32 : Word).toNat / 16 % 2 = 1 := by
  decide

/-- The first and the last offset of the list. -/
theorem witness_BusyAccessesRejected :
    (busy State.reset).status.busy = true ∧ isRejectedBusy (.wrCmd 0) = true ∧ isRejectedBusy .rdErrInfo = true := by
  decide

theorem witness_BusyAccessesKeepCommandInputs :
    (busy State.reset).status.busy = true ∧ isCommand (.wrCtrl 7) = false
    ∧ (∀ v, Instr.wrCtrl 7 = .wrCtrl v → srstBit v = false) ∧ ∃ t, exec (.wrCtrl 7) (busy State.reset) = .next t :=
  ⟨rfl, rfl, by rintro v ⟨⟩; rfl, _, rfl⟩

/-- The smallest word with bit 31 set, idle and busy. -/
theorem witness_SoftResetRestores :
    2 ^ 31 ≤ (0x80000000#32 : Word).toNat ∧ State.reset.status.busy = false
    ∧ (busy { st 0xFFFC 0 0 (bytesAt 0xFFFC [1#8]) with curCmd := 3 }).status.busy = true := by decide

theorem witness_PowerOnRestores :
    let s := { busy State.reset with inputs := [.powerOn], wait := 1 }
    s.engineTurn = false ∧ s.inputs = [.powerOn] := by decide

end Sys2Proof.Tests
end

/-! PROOFS of the family 00_scope: every operation of the block answers a next state (O8), and every step keeps the
invariant (O10). The invariant is taken apart into a condition on the buffer, one on STATUS and one on the result
registers, and each operation is inverted once, so that a proof says only what it does to those three. -/

namespace Sys2Proof.Machine

/-! ### The parts of the invariant -/

/-- The buffer's part of the invariant: canonical form, and no address from `size` on (20_memory.md R70). -/
structure Memory.Canonical (m : Memory) (size : Nat) : Prop where
  wf : m.wf = true
  inside : ∀ c ∈ m, c.1 < size

/-- STATUS's part of the invariant (10_state.md R25). -/
structure Status.Consistent (t : Status) : Prop where
  err_iff : t.err = false ↔ t.errCode = .noError
  busy_clear : t.busy = true → t.done = false ∧ t.err = false ∧ t.found = false ∧ t.errCode = .noError

/-- The result registers' part of the invariant, for a buffer of `size` bytes (10_state.md R39, R44). -/
structure Results.Legal (r : Results) (size : Nat) : Prop where
  len : r.len.toNat ≤ 0x7FFFFFFF
  count : r.count.toNat ≤ size / 12

theorem State.inv_iff (s : State) : s.Inv ↔
    (16 ≤ s.bufBytes ∧ s.bufBytes ≤ 2 ^ 31) ∧ s.mem.Canonical s.bufBytes ∧ s.status.Consistent
      ∧ s.res.Legal s.bufBytes := by
  constructor
  · rintro ⟨hge, hle, hwf, hinside, herr, hbusy, hlen, hcount⟩
    exact ⟨⟨hge, hle⟩, ⟨hwf, hinside⟩, ⟨herr, hbusy⟩, ⟨hlen, hcount⟩⟩
  · rintro ⟨⟨hge, hle⟩, ⟨hwf, hinside⟩, ⟨herr, hbusy⟩, ⟨hlen, hcount⟩⟩
    exact ⟨hge, hle, hwf, hinside, herr, hbusy, hlen, hcount⟩

theorem State.Inv.mem_canonical {s : State} (h : s.Inv) : s.mem.Canonical s.bufBytes := ⟨h.mem_wf, h.mem_inside⟩
theorem State.Inv.status_consistent {s : State} (h : s.Inv) : s.status.Consistent := ⟨h.err_iff, h.busy_clear⟩
theorem State.Inv.res_legal {s : State} (h : s.Inv) : s.res.Legal s.bufBytes := ⟨h.len_legal, h.count_legal⟩

/-- A state with the same BUF_SIZE meets the invariant when its buffer, STATUS and results do. -/
theorem State.Inv.update {s t : State} (h : s.Inv) (hsize : t.bufSize = s.bufSize)
    (hmem : t.mem.Canonical s.bufBytes) (hstatus : t.status.Consistent) (hres : t.res.Legal s.bufBytes) : t.Inv := by
  have hbytes : t.bufBytes = s.bufBytes := congrArg BitVec.toNat hsize
  rw [State.inv_iff, hbytes]
  exact ⟨⟨h.bufBytes_ge, h.bufBytes_le⟩, hmem, hstatus, hres⟩

/-- A state that differs in STATUS, among what the invariant speaks of, meets it when its STATUS does. -/
theorem State.Inv.update_status {s t : State} (h : s.Inv) (hsize : t.bufSize = s.bufSize) (hmem : t.mem = s.mem)
    (hres : t.res = s.res) (hstatus : t.status.Consistent) : t.Inv :=
  h.update hsize (hmem ▸ h.mem_canonical) hstatus (hres ▸ h.res_legal)

/-- The model's list of events and counter of accesses are no part of the invariant. -/
theorem State.Inv.withInputs {s : State} (h : s.Inv) (rest : List HostEvent) (k : Nat) :
    { s with inputs := rest, wait := k }.Inv := h.update_status rfl rfl rfl h.status_consistent

/-! ### What keeps the buffer's part -/

theorem Memory.canonical_nil (size : Nat) : Memory.Canonical [] size := ⟨rfl, by simp⟩

theorem Memory.Canonical.write {m : Memory} {size a : Nat} {bs : List Byte} (h : m.Canonical size)
    (hfits : a + bs.length ≤ size) : (m.write a bs).Canonical size :=
  ⟨Memory.write_wf m a bs h.wf, inside_write hfits h.inside⟩

theorem Memory.Canonical.forgetSpans {m : Memory} {size : Nat} (h : m.Canonical size) (spans : List (Nat × Nat)) :
    (forgetSpans m spans).Canonical size :=
  ⟨forgetSpans_wf m spans h.wf, fun c hc => h.inside c (mem_forgetSpans m spans hc)⟩

/-! ### What keeps STATUS's part -/

theorem Status.consistent_reset : ({} : Status).Consistent := ⟨by decide, by decide⟩

/-- A rejected access leaves everything but ACC_ERR (60_exceptions.md R280). -/
theorem Status.Consistent.accErr {t : Status} (h : t.Consistent) : { t with accErr := true }.Consistent :=
  ⟨h.err_iff, h.busy_clear⟩

/-- ERR and ERRCODE are cleared together (43_control.md R249). -/
theorem Status.Consistent.w1c {t : Status} (h : t.Consistent) (v : Word) : (t.w1c v).Consistent := by
  constructor
  · cases hv : v.getLsbD 2
    · simp only [Status.w1c, hv]
      simpa using h.err_iff
    · simp [Status.w1c, hv]
  · intro hbusy
    obtain ⟨hdone, herr, hfound, hcode⟩ := h.busy_clear hbusy
    simp [Status.w1c, hdone, herr, hfound, hcode]

theorem Status.started_consistent (t : Status) : t.started.Consistent :=
  ⟨by simp [Status.started], by simp [Status.started]⟩

/-- A success keeps ERR and ERRCODE and ends BUSY, whatever FOUND became (43_control.md R241). -/
theorem Status.Consistent.succeeded {t : Status} (h : t.Consistent) (b : Bool) :
    ({ t with found := b } : Status).succeeded.Consistent :=
  ⟨h.err_iff, by simp [Status.succeeded]⟩

theorem Status.failed_consistent (t : Status) {e : ErrorCode} (he : e ≠ .noError) : (t.failed e).Consistent :=
  ⟨by simp [Status.failed, he], by simp [Status.failed]⟩

/-! ### What keeps the results' part -/

theorem Results.legal_reset (size : Nat) : ({} : Results).Legal size := ⟨by decide, Nat.zero_le _⟩

/-! ### Resets (70_reset_and_hazards.md R300 to R303) -/

theorem registersReset_keeps_inv {s : State} (h : s.Inv) : (registersReset s).Inv :=
  h.update rfl h.mem_canonical Status.consistent_reset (Results.legal_reset _)

theorem abort_keeps_inv {s : State} (h : s.Inv) : (abort s).Inv :=
  h.update rfl (h.mem_canonical.forgetSpans _) h.status_consistent h.res_legal

theorem softReset_keeps_inv {s : State} (h : s.Inv) : (softReset s).Inv := by
  unfold softReset
  split
  · exact registersReset_keeps_inv (abort_keeps_inv h)
  · exact registersReset_keeps_inv h

theorem powerOnReset_keeps_inv {s : State} (h : s.Inv) : (powerOnReset s).Inv :=
  (registersReset_keeps_inv h).update rfl (Memory.canonical_nil _) Status.consistent_reset (Results.legal_reset _)

/-! ### Register operations: everything one can do -/

/-- What a register operation makes of `s`. -/
inductive RegisterEffect (s : State) : State → Prop where
  /-- it returns a value, or writes registers other than STATUS and the results -/
  | registers {t : State} (same : t = { s with
      ctrl := t.ctrl, arg0 := t.arg0, arg1 := t.arg1, arg2 := t.arg2, crcState := t.crcState
      adlerValue := t.adlerValue, bufAddr := t.bufAddr, draws := t.draws, readData := t.readData }) :
      RegisterEffect s t
  /-- it is rejected: ACC_ERR (43_control.md R262, R255 to R258) -/
  | rejects (r : Word) :
      RegisterEffect s { s with readData := r, status := { s.status with accErr := true } }
  /-- the window writes bytes in range (43_control.md R255, R257) -/
  | stores (a : Nat) (bs : List Byte) (b : Word) (fits : a + bs.length ≤ s.bufBytes) :
      RegisterEffect s { s with mem := s.mem.write a bs, bufAddr := b }
  /-- a write of CMD starts a command (43_control.md R240) -/
  | starts (w : Word) : RegisterEffect s (startCommand s w)
  /-- a write of STATUS clears what it names (43_control.md R249) -/
  | clears (v : Word) : RegisterEffect s (statusWrite s v)
  /-- a write of CTRL with SRST set (70_reset_and_hazards.md R302) -/
  | resets : RegisterEffect s (softReset s)

theorem RegisterEffect.unchanged (s : State) : RegisterEffect s s := .registers rfl

theorem RegisterEffect.returns (s : State) (v : Word) : RegisterEffect s (s.returns v) := .registers rfl

theorem RegisterEffect.accError (s : State) : RegisterEffect s s.accError := .rejects s.readData

theorem RegisterEffect.windowRead (n : Nat) (s : State) : RegisterEffect s (windowRead n s) := by
  by_cases hin : s.bufAddr.toNat + n ≤ s.bufBytes
  · rw [windowRead_inside n s hin]
    exact .registers rfl
  · rw [windowRead_outside n s (Nat.lt_of_not_le hin)]
    exact .rejects 0#32

theorem RegisterEffect.windowWrite (bs : List Byte) (s : State) : RegisterEffect s (windowWrite bs s) := by
  by_cases hin : s.bufAddr.toNat + bs.length ≤ s.bufBytes
  · rw [windowWrite_inside bs s hin]
    exact .stores _ bs _ hin
  · rw [windowWrite_outside bs s (Nat.lt_of_not_le hin)]
    exact .accError s

theorem RegisterEffect.writeCtrl (v : Word) (s : State) :
    RegisterEffect s (if srstBit v then softReset s else { s with ctrl := Ctrl.ofWord v }) := by
  split
  · exact .resets
  · exact .registers rfl

theorem exec_guardedRead_effect {i : Instr} {f : State → State} {s : State} (hi : exec i s = guardedRead f s)
    (hf : RegisterEffect s (f s)) : ∃ t, exec i s = .next t ∧ RegisterEffect s t := by
  rw [hi]
  obtain ⟨t, ht, rfl | rfl⟩ := guardedRead_cases f s
  · exact ⟨_, ht, hf⟩
  · exact ⟨_, ht, .rejects 0#32⟩

theorem exec_guardedWrite_effect {i : Instr} {f : State → State} {s : State} (hi : exec i s = guardedWrite f s)
    (hf : RegisterEffect s (f s)) : ∃ t, exec i s = .next t ∧ RegisterEffect s t := by
  rw [hi]
  obtain ⟨t, ht, rfl | rfl⟩ := guardedWrite_cases f s
  · exact ⟨_, ht, hf⟩
  · exact ⟨_, ht, .accError s⟩

/-- Every register operation answers a next state, by one of the effects; the cases are the classes of
43_control.md R245 to R264, each row being its shared operation by the definition of `exec`. -/
theorem exec_register_effect (i : Instr) (s : State) (h : isCommand i = false) :
    ∃ t, exec i s = .next t ∧ RegisterEffect s t := by
  cases i with
  | nop | crcReset | crcBuf | crcBufI | crcStore | crcCheck | adlerReset | adlerBuf | adlerBufI | adlerStore
  | adlerCheck | sigWrite | sigCheck | chunkBuild | chunkCheck | containerFind | chunkFind | illegal => cases h
  | wrCtrl v => exact ⟨_, rfl, .writeCtrl v s⟩
  | wrStatus v => exact ⟨_, rfl, .clears v⟩
  | wrCmd v =>
    refine exec_guardedWrite_effect (by rfl) ?_
    exact .starts v
  | rdBufData8 | rdBufData32 =>
    refine exec_guardedRead_effect (by rfl) ?_
    exact .windowRead _ s
  | wrBufData8 | wrBufData32 =>
    refine exec_guardedWrite_effect (by rfl) ?_
    exact .windowWrite _ s
  | rdId | rdCtrl | rdStatus | rdBufSize | rdRsv034 | rdRsv04C | rdRsv06C | rdRsv070 | rdRsv080 | rdRsv100 | rdRsv200
  | rdRsv400 | rdRsv800 => exact ⟨_, rfl, .returns s _⟩
  | rdCmd | rdArg0 | rdArg1 | rdArg2 | rdCrcState | rdCrcValue | rdAdlerValue | rdBufAddr | rdResLen | rdResTag
  | rdResData | rdResNext | rdResCrc | rdResCount | rdErrInfo | rdCrcData8 | rdCrcData32 | rdAdlerData8
  | rdAdlerData32 =>
    refine exec_guardedRead_effect (by rfl) ?_
    exact .returns s _
  | wrArg0 | wrArg1 | wrArg2 | wrCrcState | wrCrcValue | wrCrcData8 | wrCrcData32 | wrAdlerValue | wrAdlerData8
  | wrAdlerData32 | wrBufAddr =>
    refine exec_guardedWrite_effect (by rfl) ?_
    exact .registers rfl
  | wrResLen | wrResTag | wrResData | wrResNext | wrResCrc | wrResCount | wrErrInfo =>
    refine exec_guardedWrite_effect (by rfl) ?_
    exact .unchanged s
  | wrId | wrBufSize | wrRsv034 | wrRsv04C | wrRsv06C | wrRsv070 | wrRsv080 | wrRsv100 | wrRsv200 | wrRsv400
  | wrRsv800 => exact ⟨s, rfl, .unchanged s⟩

theorem RegisterEffect.keeps_inv {s t : State} (h : RegisterEffect s t) (hs : s.Inv) : t.Inv := by
  cases h with
  | registers same =>
    rw [same]
    exact hs.update_status rfl rfl rfl hs.status_consistent
  | rejects r => exact hs.update_status rfl rfl rfl hs.status_consistent.accErr
  | stores a bs b fits =>
    exact hs.update rfl (hs.mem_canonical.write fits) hs.status_consistent hs.res_legal
  | starts w => exact hs.update_status rfl rfl rfl s.status.started_consistent
  | clears v => exact hs.update_status rfl rfl rfl (hs.status_consistent.w1c v)
  | resets => exact softReset_keeps_inv hs

/-! ### Commands and instructions -/

/-- The completion of a framed body (43_control.md R241): its frame keeps buffer and results legal, and a raise sets ERR
with a code other than 0. -/
theorem Run.Framed.finish_inv {s : State} {r : Run Unit} (hr : r.Framed s) (hs : s.Inv) : r.finish.Inv := by
  obtain ⟨⟨same, hwf, hinside, hlen, hcount⟩, hraise⟩ := hr
  have hsize : r.last.bufSize = s.bufSize := congrArg (·.bufSize) same
  have hmem : r.last.mem.Canonical s.bufBytes := ⟨hwf hs.mem_wf, hinside hs.mem_inside⟩
  have hres : r.last.res.Legal s.bufBytes := ⟨hlen hs.len_legal, hcount hs.count_legal⟩
  cases r with
  | done a u =>
    have hstatus : u.status.succeeded.Consistent := by
      rw [show u.status = { s.status with found := u.status.found } from congrArg (·.status) same]
      exact hs.status_consistent.succeeded _
    exact hs.update hsize hmem hstatus hres
  | raised e info u =>
    have he : e ≠ .noError := (hraise e info u rfl).1
    exact hs.update hsize hmem (u.status.failed_consistent he) hres

/-- Every instruction answers a next state (00_scope.md R12). -/
theorem exec_answers (i : Instr) (s : State) : ∃ t, exec i s = .next t := by
  cases h : isCommand i with
  | true => exact ⟨_, exec_command i s h⟩
  | false =>
    obtain ⟨t, ht, -⟩ := exec_register_effect i s h
    exact ⟨t, ht⟩

theorem exec_keeps_inv {i : Instr} {s t : State} (hs : s.Inv) (h : exec i s = .next t) : t.Inv := by
  cases hi : isCommand i with
  | true =>
    rw [exec_command i s hi] at h
    cases h
    exact (bodyOf_framed i s).finish_inv hs
  | false =>
    obtain ⟨u, hu, heffect⟩ := exec_register_effect i s hi
    rw [hu] at h
    cases h
    exact heffect.keeps_inv hs

/-! ### Steps: everything one can do -/

theorem perform_eq_next {d : Except PortViolation Instr} {s t : State} (h : perform d s = .next t) :
    ∃ i, d = .ok i ∧ exec i s = .next t := by
  cases d with
  | ok i => exact ⟨i, rfl, h⟩
  | error why => cases h

/-- A step with a poll next reads STATUS, and polls again while it read BUSY = 1 (30_encoding.md R112). -/
theorem step_poll {s : State} {rest : List HostEvent} (hturn : s.engineTurn = false)
    (hin : s.inputs = .poll :: rest) :
    step s = .next ((s.accepting rest).returns s.status.word).pollAgain := by
  simp only [step, hturn, hin]
  rfl

/-- A step that answers completed the command in flight, performed an access, polled STATUS, took an event off
`inputs` or held the state, or reset the block. -/
theorem step_cases {s t : State} (h : step s = .next t) :
    (s.engineTurn = true ∧ exec (decodeCommand s.curCmd) s = .next t)
    ∨ (∃ i rest, exec i (s.accepting rest) = .next t)
    ∨ (∃ rest, t = ((s.accepting rest).returns s.status.word).pollAgain)
    ∨ t = s
    ∨ (∃ rest, t = { s with inputs := rest })
    ∨ (∃ rest, t = powerOnReset { s with inputs := rest }) := by
  cases hturn : s.engineTurn with
  | true => exact .inl ⟨rfl, by simpa [step, hturn] using h⟩
  | false =>
    right
    cases hin : s.inputs with
    | nil =>
      exact .inr (.inr (.inl (by simpa [step, hturn, hin] using h.symm)))
    | cons e rest =>
      cases e with
      | access a =>
        obtain ⟨i, -, hi⟩ := perform_eq_next (d := decodeAccess a) (by simpa [step, hturn, hin] using h)
        exact .inl ⟨i, rest, hi⟩
      | bus b =>
        obtain ⟨i, -, hi⟩ := perform_eq_next (d := decodeBus b) (by simpa [step, hturn, hin] using h)
        exact .inl ⟨i, rest, hi⟩
      | poll =>
        rw [step_poll hturn hin] at h
        cases h
        exact .inr (.inl ⟨rest, rfl⟩)
      | waitIrq =>
        refine .inr (.inr ?_)
        cases hirq : s.irq with
        | true => exact .inr (.inl ⟨rest, by simpa [step, hturn, hin, hirq] using h.symm⟩)
        | false => exact .inl (by simpa [step, hturn, hin, hirq] using h.symm)
      | powerOn => exact .inr (.inr (.inr (.inr ⟨rest, by simpa [step, hturn, hin] using h.symm⟩)))

theorem pollAgain_keeps_inv {s : State} (h : s.Inv) : s.pollAgain.Inv := by
  unfold State.pollAgain
  split
  · exact h.withInputs _ _
  · exact h

theorem step_keeps_inv {s t : State} (hs : s.Inv) (h : step s = .next t) : t.Inv := by
  rcases step_cases h with ⟨-, hexec⟩ | ⟨i, rest, hexec⟩ | ⟨rest, rfl⟩ | rfl | ⟨rest, rfl⟩ | ⟨rest, rfl⟩
  · exact exec_keeps_inv hs hexec
  · exact exec_keeps_inv (hs.withInputs rest _) hexec
  · exact pollAgain_keeps_inv ((RegisterEffect.returns _ _).keeps_inv (hs.withInputs rest _))
  · exact hs
  · exact hs.withInputs rest _
  · exact powerOnReset_keeps_inv (hs.withInputs rest _)

/-- The step answers in every turn and for every event that may stand first: an access is the one event that could be
refused. -/
theorem step_answers (s : State) (haccess : ∀ a rest, s.inputs = .access a :: rest → ∃ i, decodeAccess a = .ok i)
    (hbus : ∀ b rest, s.inputs = .bus b :: rest → ∃ i, decodeBus b = .ok i) : ∃ t, step s = .next t := by
  cases hturn : s.engineTurn with
  | true => simpa [step, hturn] using exec_answers (decodeCommand s.curCmd) s
  | false =>
    cases hin : s.inputs with
    | nil => exact ⟨s, by simp [step, hturn, hin]⟩
    | cons e rest =>
      cases e with
      | access a =>
        obtain ⟨i, hi⟩ := haccess a rest hin
        simpa [step, hturn, hin, hi, perform] using exec_answers i (s.accepting rest)
      | bus b =>
        obtain ⟨i, hi⟩ := hbus b rest hin
        simpa [step, hturn, hin, hi, perform] using exec_answers i (s.accepting rest)
      | poll => exact ⟨_, step_poll hturn hin⟩
      | waitIrq => exact ⟨if s.irq then { s with inputs := rest } else s, by simp [step, hturn, hin]⟩
      | powerOn => exact ⟨powerOnReset { s with inputs := rest }, by simp [step, hturn, hin]⟩

/-! ### The obligations -/

/-- Settles O10: by what a step can do, each of its effects keeps the three parts of the invariant. -/
theorem stepKeepsInvariant : Obligations.StepKeepsInvariant :=
  fun _ _ hs h => step_keeps_inv hs h

/-- Settles O8: by the event that stands first; every instruction answers, and a decoded access is one. -/
theorem stepAnswersInsideInterface : Obligations.StepAnswersInsideInterface :=
  fun s haccess hbus => step_answers s haccess hbus

end Sys2Proof.Machine

/-! PROOFS of the family 10_state: no step changes BUF_SIZE (O11), every command completes and keeps the operands and the
host's side (O39), and the two accumulators are independent (O40). That an operation does not read an accumulator is said
by commutation: performing it and replacing the accumulator come to the same in either order. -/

namespace Sys2Proof.Machine

/-! ### BUF_SIZE -/

theorem softReset_bufSize (s : State) : (softReset s).bufSize = s.bufSize := by
  unfold softReset
  split
  · exact abort_bufSize s
  · rfl

theorem pollAgain_bufSize (s : State) : s.pollAgain.bufSize = s.bufSize := by
  unfold State.pollAgain
  split <;> rfl

theorem RegisterEffect.keeps_bufSize {s t : State} (h : RegisterEffect s t) : t.bufSize = s.bufSize := by
  cases h with
  | registers same => exact congrArg (·.bufSize) same
  | rejects r => rfl
  | stores a bs b fits => rfl
  | starts w => rfl
  | clears v => rfl
  | resets => exact softReset_bufSize s

/-! ### The completion of a command -/

/-- What a completed command leaves as it was, whatever its body did: everything but the accumulators, the results, the
buffer, the draws, ERR_INFO and the flags of STATUS other than ACC_ERR (10_state.md R22, R51; 43_control.md R241). -/
theorem Run.Framed.finish_frame {s : State} {r : Run Unit} (hr : r.Framed s) :
    ∃ t : Status, t.busy = false ∧ t.done = true ∧ t.accErr = s.status.accErr
      ∧ r.finish = { s with
        crcState := r.last.crcState, adlerValue := r.last.adlerValue, res := r.last.res, mem := r.last.mem
        draws := r.last.draws, errInfo := r.finish.errInfo, status := t } := by
  obtain ⟨t, info, hfinish, hbusy, hdone, -, hacc⟩ := Machine.finish_frame r
  have hsame := hr.frame.same
  refine ⟨t, hbusy, hdone, hacc.trans (congrArg (·.status.accErr) hsame), ?_⟩
  rw [hfinish]
  exact congrArg (fun u : State => { u with status := t, errInfo := info }) hsame

theorem exec_keeps_bufSize {i : Instr} {s t : State} (h : exec i s = .next t) : t.bufSize = s.bufSize := by
  cases hi : isCommand i with
  | true =>
    rw [exec_command i s hi] at h
    cases h
    obtain ⟨status, -, -, -, hfinish⟩ := (bodyOf_framed i s).finish_frame
    rw [hfinish]
  | false =>
    obtain ⟨u, hu, heffect⟩ := exec_register_effect i s hi
    rw [hu] at h
    cases h
    exact heffect.keeps_bufSize

/-- Settles O11: by what a step can do. -/
theorem stepKeepsBufSize : Obligations.StepKeepsBufSize := by
  intro s t h
  rcases step_cases h with ⟨-, hexec⟩ | ⟨i, rest, hexec⟩ | ⟨rest, rfl⟩ | rfl | ⟨rest, rfl⟩ | ⟨rest, rfl⟩
  · exact exec_keeps_bufSize hexec
  · exact (exec_keeps_bufSize hexec).trans (accepting_bufSize s rest)
  · exact pollAgain_bufSize _
  · rfl
  · rfl
  · rfl

/-- Settles O39: the completion of the command's body, and the body's frame. -/
theorem commandsCompleteAndKeepOperands : Obligations.CommandsCompleteAndKeepOperands := by
  intro s i hi
  obtain ⟨t, hbusy, hdone, hacc, hfinish⟩ := (bodyOf_framed i s).finish_frame
  refine ⟨_, exec_command i s hi, ?_⟩
  rw [hfinish]
  exact ⟨hbusy, hdone, rfl, rfl, rfl, rfl, rfl, rfl, hacc, rfl, rfl, rfl, rfl⟩

/-! ### Who writes and who reads what (10_state.md R20, R51; 20_memory.md R70; 42_framing.md R208) -/

/-- The operations that update ADLER_VALUE. -/
def updatesAdler : Instr → Bool
  | .adlerReset | .adlerBuf | .adlerBufI | .wrAdlerValue _ | .wrAdlerData8 _ | .wrAdlerData32 _ => true
  | _ => false

/-- The operations that update CRC_STATE. -/
def updatesCrc : Instr → Bool
  | .crcReset | .crcBuf | .crcBufI | .wrCrcState _ | .wrCrcValue _ | .wrCrcData8 _ | .wrCrcData32 _ => true
  | _ => false

/-- The operations that update ADLER_VALUE or look at it. -/
def usesAdler : Instr → Bool
  | .adlerStore | .adlerCheck | .rdAdlerValue => true
  | i => updatesAdler i

/-- The operations that update CRC_STATE or look at it. -/
def usesCrc : Instr → Bool
  | .crcStore | .crcCheck | .rdCrcState | .rdCrcValue => true
  | i => updatesCrc i

/-- The operations that write buffer bytes. -/
def writesBuffer : Instr → Bool
  | .crcStore | .adlerStore | .sigWrite | .chunkBuild | .wrBufData8 _ | .wrBufData32 _ => true
  | _ => false

/-- The walks, which alone set FOUND. -/
def isWalk : Instr → Bool
  | .containerFind | .chunkFind => true
  | _ => false

/-- A write of CTRL with SRST set. -/
def isSoftReset : Instr → Bool
  | .wrCtrl v => srstBit v
  | _ => false

theorem updatesAdler_eq_false {i : Instr} (h : ∀ v, i ∉
    [Instr.adlerReset, .adlerBuf, .adlerBufI, .wrAdlerValue v, .wrAdlerData8 v, .wrAdlerData32 v]) :
    updatesAdler i = false := by
  cases i with
  | adlerReset | adlerBuf | adlerBufI => simp at h
  | wrAdlerValue v | wrAdlerData8 v | wrAdlerData32 v => simpa using h v
  | _ => rfl

theorem updatesCrc_eq_false {i : Instr} (h : ∀ v, i ∉
    [Instr.crcReset, .crcBuf, .crcBufI, .wrCrcState v, .wrCrcValue v, .wrCrcData8 v, .wrCrcData32 v]) :
    updatesCrc i = false := by
  cases i with
  | crcReset | crcBuf | crcBufI => simp at h
  | wrCrcState v | wrCrcValue v | wrCrcData8 v | wrCrcData32 v => simpa using h v
  | _ => rfl

theorem usesAdler_eq_false {i : Instr} (h : ∀ v, i ∉
    [Instr.adlerReset, .adlerBuf, .adlerBufI, .wrAdlerValue v, .wrAdlerData8 v, .wrAdlerData32 v,
      .adlerStore, .adlerCheck, .rdAdlerValue]) :
    usesAdler i = false := by
  cases i with
  | adlerReset | adlerBuf | adlerBufI | adlerStore | adlerCheck | rdAdlerValue => simp at h
  | wrAdlerValue v | wrAdlerData8 v | wrAdlerData32 v => simpa using h v
  | _ => rfl

theorem usesCrc_eq_false {i : Instr} (h : ∀ v, i ∉
    [Instr.crcReset, .crcBuf, .crcBufI, .wrCrcState v, .wrCrcValue v, .wrCrcData8 v, .wrCrcData32 v,
      .crcStore, .crcCheck, .rdCrcState, .rdCrcValue]) :
    usesCrc i = false := by
  cases i with
  | crcReset | crcBuf | crcBufI | crcStore | crcCheck | rdCrcState | rdCrcValue => simp at h
  | wrCrcState v | wrCrcValue v | wrCrcData8 v | wrCrcData32 v => simpa using h v
  | _ => rfl

theorem writesBuffer_eq_false {i : Instr} (h : ∀ v, i ∉
    [Instr.crcStore, .adlerStore, .sigWrite, .chunkBuild, .wrBufData8 v, .wrBufData32 v]) :
    writesBuffer i = false := by
  cases i with
  | crcStore | adlerStore | sigWrite | chunkBuild => simp at h
  | wrBufData8 v | wrBufData32 v => simpa using h v
  | _ => rfl

theorem isWalk_eq_false {i : Instr} (hcontainer : i ≠ .containerFind) (hchunk : i ≠ .chunkFind) :
    isWalk i = false := by
  cases i with
  | containerFind => exact absurd rfl hcontainer
  | chunkFind => exact absurd rfl hchunk
  | _ => rfl

/-! ### Replacing the accumulators -/

/-- The state with other contents of the two accumulators, CRC_STATE by `c` and ADLER_VALUE by `a`. -/
def State.mapAccs (c a : Word → Word) (s : State) : State :=
  { s with crcState := c s.crcState, adlerValue := a s.adlerValue }

/-- The same body's end, with other contents of the accumulators. -/
def Run.mapAccs {α : Type} (c a : Word → Word) : Run α → Run α
  | .done x s => .done x (s.mapAccs c a)
  | .raised e info s => .raised e info (s.mapAccs c a)

section
variable {α β : Type} (c a : Word → Word) (s : State)

@[simp] theorem mapAccs_crcState : (s.mapAccs c a).crcState = c s.crcState := rfl
@[simp] theorem mapAccs_adlerValue : (s.mapAccs c a).adlerValue = a s.adlerValue := rfl
@[simp] theorem mapAccs_arg0 : (s.mapAccs c a).arg0 = s.arg0 := rfl
@[simp] theorem mapAccs_arg1 : (s.mapAccs c a).arg1 = s.arg1 := rfl
@[simp] theorem mapAccs_argAddr : (s.mapAccs c a).argAddr = s.argAddr := rfl
@[simp] theorem mapAccs_argLen : (s.mapAccs c a).argLen = s.argLen := rfl
@[simp] theorem mapAccs_argTag : (s.mapAccs c a).argTag = s.argTag := rfl

@[simp] theorem inRange_mapAccs (p n : Nat) : (s.mapAccs c a).inRange p n = s.inRange p n := rfl
@[simp] theorem memRead_mapAccs (p n : Nat) : (s.mapAccs c a).memRead p n = s.memRead p n := rfl
@[simp] theorem readBE32_mapAccs (p : Nat) : (s.mapAccs c a).readBE32 p = s.readBE32 p := rfl

@[simp] theorem nextDraw_mapAccs : (s.mapAccs c a).nextDraw = s.nextDraw.mapAccs c a := rfl
@[simp] theorem putBE32_mapAccs (p : Nat) (v : Word) : (s.mapAccs c a).putBE32 p v = (s.putBE32 p v).mapAccs c a := rfl
@[simp] theorem clearResults_mapAccs : clearResults (s.mapAccs c a) = (clearResults s).mapAccs c a := rfl
@[simp] theorem reportRecord_mapAccs (p n : Nat) (tag v : Word) :
    reportRecord p n tag v (s.mapAccs c a) = (reportRecord p n tag v s).mapAccs c a := rfl
@[simp] theorem countRecord_mapAccs : countRecord (s.mapAccs c a) = (countRecord s).mapAccs c a := rfl
@[simp] theorem setFound_mapAccs (b : Bool) : (s.mapAccs c a).setFound b = (s.setFound b).mapAccs c a := rfl
@[simp] theorem returns_mapAccs (v : Word) : (s.mapAccs c a).returns v = (s.returns v).mapAccs c a := rfl

@[simp] theorem done_mapAccs (x : α) : (Run.done x s).mapAccs c a = .done x (s.mapAccs c a) := rfl
@[simp] theorem raised_mapAccs (e : ErrorCode) (info : Word) :
    (Run.raised e info s : Run α).mapAccs c a = .raised e info (s.mapAccs c a) := rfl
@[simp] theorem ite_mapAccs (p : Prop) [Decidable p] (q r : Run α) :
    (if p then q else r).mapAccs c a = if p then q.mapAccs c a else r.mapAccs c a :=
  apply_ite (Run.mapAccs c a) p q r

theorem andThen_mapAccs (r : Run α) (f : α → State → Run β)
    (hf : ∀ x u, f x (u.mapAccs c a) = (f x u).mapAccs c a) :
    (r.mapAccs c a).andThen f = (r.andThen f).mapAccs c a := by
  cases r with
  | done x u => exact hf x u
  | raised e info u => rfl

theorem finish_mapAccs (r : Run Unit) : (r.mapAccs c a).finish = r.finish.mapAccs c a := by
  cases r <;> rfl

/-! ### A body reads no accumulator but its own engine's -/

theorem crcBufBody_mapAccs (init : Bool) : crcBufBody init (s.mapAccs id a) = (crcBufBody init s).mapAccs id a := by
  simp only [crcBufBody, ite_mapAccs, done_mapAccs, raised_mapAccs]
  rfl

theorem adlerBufBody_mapAccs (init : Bool) :
    adlerBufBody init (s.mapAccs c id) = (adlerBufBody init s).mapAccs c id := by
  simp only [adlerBufBody, ite_mapAccs, done_mapAccs, raised_mapAccs]
  rfl

theorem storeTrailer_mapAccs (v : Word) : storeTrailer v (s.mapAccs c a) = (storeTrailer v s).mapAccs c a := by
  simp only [storeTrailer, ite_mapAccs, done_mapAccs, raised_mapAccs]
  rfl

theorem checkTrailer_mapAccs (v : Word) : checkTrailer v (s.mapAccs c a) = (checkTrailer v s).mapAccs c a := by
  simp only [checkTrailer, ite_mapAccs, done_mapAccs, raised_mapAccs]
  rfl

theorem sigWriteBody_mapAccs : sigWriteBody (s.mapAccs c a) = (sigWriteBody s).mapAccs c a := by
  simp only [sigWriteBody, ite_mapAccs, done_mapAccs, raised_mapAccs]
  rfl

theorem sigCheckBody_mapAccs : sigCheckBody (s.mapAccs c a) = (sigCheckBody s).mapAccs c a := by
  simp only [sigCheckBody, ite_mapAccs, done_mapAccs, raised_mapAccs]
  rfl

theorem chunkBuildBody_mapAccs : chunkBuildBody (s.mapAccs c a) = (chunkBuildBody s).mapAccs c a := by
  simp [chunkBuildBody]

theorem checkRecord_mapAccs (p stop : Nat) :
    checkRecord p stop (s.mapAccs c a) = (checkRecord p stop s).mapAccs c a := by
  simp only [checkRecord, readBE32_mapAccs, memRead_mapAccs, nextDraw_mapAccs, reportRecord_mapAccs,
    countRecord_mapAccs, ite_mapAccs, done_mapAccs, raised_mapAccs]
  congr

theorem walk_mapAccs (fuel cursor stop : Nat) (target : Word) :
    walk fuel cursor stop target (s.mapAccs c a) = (walk fuel cursor stop target s).mapAccs c a := by
  induction fuel generalizing cursor s with
  | zero => rfl
  | succ fuel ih =>
    simp only [walk, ite_mapAccs, checkRecord_mapAccs, setFound_mapAccs, done_mapAccs]
    congr 1
    exact andThen_mapAccs c a _ _ fun hit u => by simp [ih]

theorem chunkCheckBody_mapAccs : chunkCheckBody (s.mapAccs c a) = (chunkCheckBody s).mapAccs c a := by
  simp only [chunkCheckBody, clearResults_mapAccs, ite_mapAccs, inRange_mapAccs, mapAccs_argAddr, mapAccs_argLen,
    checkRecord_mapAccs, raised_mapAccs, mapAccs_arg0]
  congr 1
  exact andThen_mapAccs c a _ _ fun _ _ => rfl

theorem containerFindBody_mapAccs : containerFindBody (s.mapAccs c a) = (containerFindBody s).mapAccs c a := by
  simp only [containerFindBody, ite_mapAccs, ← walk_mapAccs, raised_mapAccs]
  rfl

theorem chunkFindBody_mapAccs : chunkFindBody (s.mapAccs c a) = (chunkFindBody s).mapAccs c a := by
  simp only [chunkFindBody, ite_mapAccs, ← walk_mapAccs, raised_mapAccs]
  rfl

end

theorem bodyOf_mapAccs (i : Instr) (c a : Word → Word) (s : State) (hc : usesCrc i = true → c = id)
    (ha : usesAdler i = true → a = id) : bodyOf i (s.mapAccs c a) = (bodyOf i s).mapAccs c a := by
  cases i with
  | crcReset =>
    cases hc rfl
    rfl
  | adlerReset =>
    cases ha rfl
    rfl
  | crcBuf | crcBufI =>
    cases hc rfl
    exact crcBufBody_mapAccs a s _
  | adlerBuf | adlerBufI =>
    cases ha rfl
    exact adlerBufBody_mapAccs c s _
  | crcStore =>
    cases hc rfl
    exact storeTrailer_mapAccs id a s _
  | crcCheck =>
    cases hc rfl
    exact checkTrailer_mapAccs id a s _
  | adlerStore =>
    cases ha rfl
    exact storeTrailer_mapAccs c id s _
  | adlerCheck =>
    cases ha rfl
    exact checkTrailer_mapAccs c id s _
  | sigWrite => exact sigWriteBody_mapAccs c a s
  | sigCheck => exact sigCheckBody_mapAccs c a s
  | chunkBuild => exact chunkBuildBody_mapAccs c a s
  | chunkCheck => exact chunkCheckBody_mapAccs c a s
  | containerFind => exact containerFindBody_mapAccs c a s
  | chunkFind => exact chunkFindBody_mapAccs c a s
  | _ => rfl

/-! ### What each body may have changed where it ended -/

theorem crcBufBody_last (init : Bool) (s : State) :
    ∃ v n, (crcBufBody init s).last = { s with crcState := v, draws := n } := by
  unfold crcBufBody
  split
  · exact ⟨_, _, rfl⟩
  · exact ⟨_, _, rfl⟩

theorem adlerBufBody_last (init : Bool) (s : State) :
    ∃ v n, (adlerBufBody init s).last = { s with adlerValue := v, draws := n } := by
  unfold adlerBufBody
  split
  · exact ⟨_, _, rfl⟩
  · exact ⟨_, _, rfl⟩

theorem storeTrailer_last (v : Word) (s : State) : ∃ m, (storeTrailer v s).last = { s with mem := m } := by
  unfold storeTrailer
  split
  · exact ⟨_, rfl⟩
  · exact ⟨_, rfl⟩

theorem checkTrailer_last (v : Word) (s : State) : ∃ n, (checkTrailer v s).last = { s with draws := n } := by
  unfold checkTrailer
  split
  · split
    · exact ⟨_, rfl⟩
    · exact ⟨_, rfl⟩
  · exact ⟨_, rfl⟩

theorem sigWriteBody_last (s : State) : ∃ m, (sigWriteBody s).last = { s with mem := m } := by
  unfold sigWriteBody
  split
  · exact ⟨_, rfl⟩
  · exact ⟨_, rfl⟩

theorem sigCheckBody_last (s : State) : ∃ n, (sigCheckBody s).last = { s with draws := n } := by
  unfold sigCheckBody
  split
  · split
    · exact ⟨_, rfl⟩
    · exact ⟨_, rfl⟩
  · exact ⟨_, rfl⟩

theorem chunkBuildBody_last (s : State) :
    ∃ r m n, (chunkBuildBody s).last = { s with res := r, mem := m, draws := n } := by
  by_cases hlen : s.argLen ≤ 0x7FFFFFFF
  · by_cases hin : s.argAddr + 12 + s.argLen ≤ s.bufBytes
    · obtain ⟨v, -, h⟩ := chunkBuild_eq s hlen hin
      exact ⟨_, _, _, by rw [h]; rfl⟩
    · exact ⟨_, _, _, by rw [chunkBuild_outside s hlen (Nat.lt_of_not_le hin)]; rfl⟩
  · exact ⟨_, _, _, by rw [chunkBuild_badLength s (Nat.lt_of_not_le hlen)]; rfl⟩

theorem chunkCheckBody_last (s : State) : ∃ r n, (chunkCheckBody s).last = { s with res := r, draws := n } := by
  unfold chunkCheckBody
  dsimp only
  split
  · rcases checkRecord_cases (clearResults s).argAddr ((clearResults s).argAddr + (clearResults s).argLen)
      (clearResults s) with ⟨e, n, -, h⟩ | ⟨r, n, h, -⟩ | ⟨len, tag, r, n, h, -⟩
    · exact ⟨_, _, by rw [h]; rfl⟩
    · exact ⟨_, _, by rw [h]; rfl⟩
    · exact ⟨_, _, by rw [h]; rfl⟩
  · exact ⟨_, _, rfl⟩

/-- A walk changes the results, the draws and FOUND alone. -/
theorem walk_last (fuel cursor stop : Nat) (target : Word) (s : State) :
    ∃ r n b, (walk fuel cursor stop target s).last =
      { s with res := r, draws := n, status := { s.status with found := b } } := by
  induction fuel generalizing cursor s with
  | zero => exact ⟨_, _, _, rfl⟩
  | succ fuel ih =>
    unfold walk
    split
    · rcases checkRecord_cases cursor stop s with ⟨e, n, -, h⟩ | ⟨r, n, h, -⟩ | ⟨len, tag, r, n, h, -⟩
      · exact ⟨_, _, _, by rw [h]; rfl⟩
      · exact ⟨_, _, _, by rw [h]; rfl⟩
      · rw [h, andThen_done]
        split
        · exact ⟨_, _, _, rfl⟩
        · obtain ⟨r', n', b, hlast⟩ := ih (cursor + 12 + len) { s with res := r, draws := n }
          exact ⟨r', n', b, hlast⟩
    · exact ⟨_, _, _, rfl⟩

theorem containerFindBody_last (s : State) :
    ∃ r n b, (containerFindBody s).last =
      { s with res := r, draws := n, status := { s.status with found := b } } := by
  unfold containerFindBody
  dsimp only
  split
  · split
    · exact ⟨_, _, _, rfl⟩
    · split
      · exact walk_last _ _ _ _ (clearResults s).nextDraw
      · exact ⟨_, _, _, rfl⟩
  · exact ⟨_, _, _, rfl⟩

theorem chunkFindBody_last (s : State) :
    ∃ r n b, (chunkFindBody s).last =
      { s with res := r, draws := n, status := { s.status with found := b } } := by
  unfold chunkFindBody
  dsimp only
  split
  · exact walk_last _ _ _ _ (clearResults s)
  · exact ⟨_, _, _, rfl⟩

/-! ### One operation: what it keeps, and what it does not read -/

/-- What the operation `i` leaves as it was in the next state `t`, by the class of `i`. -/
structure KeepsOthers (i : Instr) (s t : State) : Prop where
  adler : updatesAdler i = false → t.adlerValue = s.adlerValue
  crc : updatesCrc i = false → t.crcState = s.crcState
  mem : writesBuffer i = false → t.mem = s.mem
  res : isFrame i = false → t.res = s.res
  found : isWalk i = false → t.status.found = true → s.status.found = true

/-- The effect `f` of the operation `i` keeps what `i` has no part in, and commutes with a replacement of each
accumulator that `i` does not use. -/
structure Isolated (i : Instr) (f : State → State) : Prop where
  keeps : ∀ s, KeepsOthers i s (f s)
  carries : ∀ c a s, (usesCrc i = true → c = id) → (usesAdler i = true → a = id) →
    f (s.mapAccs c a) = (f s).mapAccs c a

theorem KeepsOthers.of_same {i : Instr} {s t : State} (hadler : t.adlerValue = s.adlerValue)
    (hcrc : t.crcState = s.crcState) (hmem : t.mem = s.mem) (hres : t.res = s.res)
    (hfound : t.status.found = s.status.found) : KeepsOthers i s t :=
  ⟨fun _ => hadler, fun _ => hcrc, fun _ => hmem, fun _ => hres, fun _ ht => hfound ▸ ht⟩

theorem KeepsOthers.refl (i : Instr) (s : State) : KeepsOthers i s s := .of_same rfl rfl rfl rfl rfl

theorem KeepsOthers.returns (i : Instr) (s : State) (v : Word) : KeepsOthers i s (s.returns v) :=
  .of_same rfl rfl rfl rfl rfl

theorem KeepsOthers.accError {i : Instr} {s t : State} (h : KeepsOthers i s t) : KeepsOthers i s t.accError :=
  ⟨h.adler, h.crc, h.mem, h.res, h.found⟩

/-- A completion changes STATUS and ERR_INFO alone, and FOUND not. -/
theorem KeepsOthers.finish {i : Instr} {s : State} {r : Run Unit} (h : KeepsOthers i s r.last) :
    KeepsOthers i s r.finish := by
  obtain ⟨t, info, hfinish, -, -, hfound, -⟩ := finish_frame r
  rw [hfinish]
  exact ⟨h.adler, h.crc, h.mem, h.res, fun hi ht => h.found hi (hfound ▸ ht)⟩

theorem bodyOf_keepsOthers (i : Instr) (s : State) : KeepsOthers i s (bodyOf i s).last := by
  cases i with
  | crcReset => exact ⟨fun _ => rfl, nofun, fun _ => rfl, fun _ => rfl, fun _ h => h⟩
  | adlerReset => exact ⟨nofun, fun _ => rfl, fun _ => rfl, fun _ => rfl, fun _ h => h⟩
  | crcBuf | crcBufI =>
    obtain ⟨v, n, h⟩ := crcBufBody_last _ s
    rw [bodyOf, h]
    exact ⟨fun _ => rfl, nofun, fun _ => rfl, fun _ => rfl, fun _ h => h⟩
  | adlerBuf | adlerBufI =>
    obtain ⟨v, n, h⟩ := adlerBufBody_last _ s
    rw [bodyOf, h]
    exact ⟨nofun, fun _ => rfl, fun _ => rfl, fun _ => rfl, fun _ h => h⟩
  | crcStore | adlerStore =>
    obtain ⟨m, h⟩ := storeTrailer_last _ s
    rw [bodyOf, h]
    exact ⟨fun _ => rfl, fun _ => rfl, nofun, fun _ => rfl, fun _ h => h⟩
  | crcCheck | adlerCheck =>
    obtain ⟨n, h⟩ := checkTrailer_last _ s
    rw [bodyOf, h]
    exact .of_same rfl rfl rfl rfl rfl
  | sigWrite =>
    obtain ⟨m, h⟩ := sigWriteBody_last s
    rw [bodyOf, h]
    exact ⟨fun _ => rfl, fun _ => rfl, nofun, fun _ => rfl, fun _ h => h⟩
  | sigCheck =>
    obtain ⟨n, h⟩ := sigCheckBody_last s
    rw [bodyOf, h]
    exact .of_same rfl rfl rfl rfl rfl
  | chunkBuild =>
    obtain ⟨r, m, n, h⟩ := chunkBuildBody_last s
    rw [bodyOf, h]
    exact ⟨fun _ => rfl, fun _ => rfl, nofun, nofun, fun _ h => h⟩
  | chunkCheck =>
    obtain ⟨r, n, h⟩ := chunkCheckBody_last s
    rw [bodyOf, h]
    exact ⟨fun _ => rfl, fun _ => rfl, fun _ => rfl, nofun, fun _ h => h⟩
  | containerFind =>
    obtain ⟨r, n, b, h⟩ := containerFindBody_last s
    rw [bodyOf, h]
    exact ⟨fun _ => rfl, fun _ => rfl, fun _ => rfl, nofun, nofun⟩
  | chunkFind =>
    obtain ⟨r, n, b, h⟩ := chunkFindBody_last s
    rw [bodyOf, h]
    exact ⟨fun _ => rfl, fun _ => rfl, fun _ => rfl, nofun, nofun⟩
  | _ => exact .refl _ s

theorem Isolated.command (i : Instr) : Isolated i fun s => (bodyOf i s).finish where
  keeps s := (bodyOf_keepsOthers i s).finish
  carries c a s hc ha := by rw [bodyOf_mapAccs i c a s hc ha, finish_mapAccs]

theorem Isolated.unchanged (i : Instr) : Isolated i id := ⟨.refl i, fun _ _ _ _ _ => rfl⟩

/-- A read whose value is none of an accumulator that the operation does not use. -/
theorem Isolated.returns {i : Instr} {g : State → Word} (hg : ∀ c a s, (usesCrc i = true → c = id) →
    (usesAdler i = true → a = id) → g (s.mapAccs c a) = g s) : Isolated i fun s => s.returns (g s) where
  keeps s := .returns i s (g s)
  carries c a s hc ha := by rw [hg c a s hc ha, returns_mapAccs]

/-- The guard of a read looks at BUSY alone (43_control.md R262). -/
theorem Isolated.guardedRead {i : Instr} {f : State → State} (hf : Isolated i f)
    (hi : ∀ s, exec i s = guardedRead f s) : ∃ g, (∀ s, exec i s = .next (g s)) ∧ Isolated i g := by
  refine ⟨fun s => if s.status.busy then (s.returns 0#32).accError else f s, hi, fun s => ?_, fun c a s hc ha => ?_⟩
  · split
    · exact (KeepsOthers.returns i s _).accError
    · exact hf.keeps s
  · rw [hf.carries c a s hc ha, apply_ite (State.mapAccs c a)]
    rfl

/-- The guard of a write looks at BUSY alone (43_control.md R262). -/
theorem Isolated.guardedWrite {i : Instr} {f : State → State} (hf : Isolated i f)
    (hi : ∀ s, exec i s = guardedWrite f s) : ∃ g, (∀ s, exec i s = .next (g s)) ∧ Isolated i g := by
  refine ⟨fun s => if s.status.busy then s.accError else f s, hi, fun s => ?_, fun c a s hc ha => ?_⟩
  · split
    · exact (KeepsOthers.refl i s).accError
    · exact hf.keeps s
  · rw [hf.carries c a s hc ha, apply_ite (State.mapAccs c a)]
    rfl

theorem windowRead_keepsOthers (i : Instr) (n : Nat) (s : State) : KeepsOthers i s (windowRead n s) := by
  by_cases hin : s.bufAddr.toNat + n ≤ s.bufBytes
  · rw [windowRead_inside n s hin]
    exact .of_same rfl rfl rfl rfl rfl
  · rw [windowRead_outside n s (Nat.lt_of_not_le hin)]
    exact (KeepsOthers.returns i s _).accError

theorem windowRead_mapAccs (n : Nat) (c a : Word → Word) (s : State) :
    windowRead n (s.mapAccs c a) = (windowRead n s).mapAccs c a := by
  simp only [windowRead, apply_ite (State.mapAccs c a)]
  rfl

theorem Isolated.windowRead (i : Instr) (n : Nat) : Isolated i (windowRead n) :=
  ⟨windowRead_keepsOthers i n, fun c a s _ _ => windowRead_mapAccs n c a s⟩

theorem windowWrite_keepsOthers {i : Instr} (hi : writesBuffer i = true) (bs : List Byte) (s : State) :
    KeepsOthers i s (windowWrite bs s) := by
  by_cases hin : s.bufAddr.toNat + bs.length ≤ s.bufBytes
  · rw [windowWrite_inside bs s hin]
    exact ⟨fun _ => rfl, fun _ => rfl, fun hmem => by simp [hi] at hmem, fun _ => rfl, fun _ h => h⟩
  · rw [windowWrite_outside bs s (Nat.lt_of_not_le hin)]
    exact (KeepsOthers.refl i s).accError

theorem windowWrite_mapAccs (bs : List Byte) (c a : Word → Word) (s : State) :
    windowWrite bs (s.mapAccs c a) = (windowWrite bs s).mapAccs c a := by
  simp only [windowWrite, apply_ite (State.mapAccs c a)]
  rfl

theorem Isolated.windowWrite {i : Instr} (hi : writesBuffer i = true) (bs : List Byte) : Isolated i (windowWrite bs) :=
  ⟨windowWrite_keepsOthers hi bs, fun c a s _ _ => windowWrite_mapAccs bs c a s⟩

/-- The engine's own writes of CRC_STATE: a function of what it held. -/
theorem Isolated.writesCrc {i : Instr} (hi : updatesCrc i = true) (huse : usesCrc i = true) (g : Word → Word) :
    Isolated i fun s => { s with crcState := g s.crcState } where
  keeps s := ⟨fun _ => rfl, fun h => by simp [hi] at h, fun _ => rfl, fun _ => rfl, fun _ h => h⟩
  carries c a s hc _ := by
    cases hc huse
    rfl

/-- The rolling checksum's own writes of ADLER_VALUE: a function of what it held. -/
theorem Isolated.writesAdler {i : Instr} (hi : updatesAdler i = true) (huse : usesAdler i = true) (g : Word → Word) :
    Isolated i fun s => { s with adlerValue := g s.adlerValue } where
  keeps s := ⟨fun h => by simp [hi] at h, fun _ => rfl, fun _ => rfl, fun _ => rfl, fun _ h => h⟩
  carries c a s _ ha := by
    cases ha huse
    rfl

/-- A write of CTRL that is no soft reset stores the enables, by a state of CTRL (43_control.md R247). -/
theorem exec_wrCtrl_stores {v : Word} (h : srstBit v = false) (s : State) :
    exec (.wrCtrl v) s = .next { s with ctrl := Ctrl.ofWord v } := by
  rw [exec_wrCtrl, h]
  rfl

/-- Every operation but a soft reset is the same isolated effect on every state; the cases are the classes of
43_control.md R241 to R264. -/
theorem exec_isolated (i : Instr) (h : isSoftReset i = false) :
    ∃ f, (∀ s, exec i s = .next (f s)) ∧ Isolated i f := by
  cases hcommand : isCommand i with
  | true => exact ⟨_, fun s => exec_command i s hcommand, .command i⟩
  | false =>
    cases i with
    | nop | crcReset | crcBuf | crcBufI | crcStore | crcCheck | adlerReset | adlerBuf | adlerBufI | adlerStore
    | adlerCheck | sigWrite | sigCheck | chunkBuild | chunkCheck | containerFind | chunkFind | illegal =>
      cases hcommand
    | wrCtrl v =>
      exact ⟨_, exec_wrCtrl_stores h,
        fun _ => .of_same rfl rfl rfl rfl rfl, fun _ _ _ _ _ => rfl⟩
    | wrStatus v =>
      exact ⟨_, exec_wrStatus v,
        fun _ => .of_same rfl rfl rfl rfl rfl, fun _ _ _ _ _ => rfl⟩
    | wrCmd v =>
      refine Isolated.guardedWrite ⟨fun s => ?_, fun _ _ _ _ _ => rfl⟩ (exec_wrCmd v)
      exact ⟨fun _ => rfl, fun _ => rfl, fun _ => rfl, fun _ => rfl, nofun⟩
    | rdId | rdCtrl | rdStatus | rdBufSize | rdRsv034 | rdRsv04C | rdRsv06C | rdRsv070 | rdRsv080 | rdRsv100
    | rdRsv200 | rdRsv400 | rdRsv800 => exact ⟨_, fun _ => rfl, .returns fun _ _ _ _ _ => rfl⟩
    | rdCmd | rdArg0 | rdArg1 | rdArg2 | rdBufAddr | rdResLen | rdResTag | rdResData | rdResNext | rdResCrc
    | rdResCount | rdErrInfo | rdCrcData8 | rdCrcData32 | rdAdlerData8 | rdAdlerData32 =>
      refine Isolated.guardedRead ?_ fun _ => rfl
      exact .returns fun _ _ _ _ _ => rfl
    | rdCrcState | rdCrcValue =>
      refine Isolated.guardedRead ?_ fun _ => rfl
      exact .returns fun c a s hc _ => by rw [mapAccs_crcState, hc rfl]; rfl
    | rdAdlerValue =>
      refine Isolated.guardedRead ?_ fun _ => rfl
      exact .returns fun c a s _ ha => by rw [mapAccs_adlerValue, ha rfl]; rfl
    | rdBufData8 | rdBufData32 => exact (Isolated.windowRead _ _).guardedRead fun _ => rfl
    | wrBufData8 | wrBufData32 => exact (Isolated.windowWrite rfl _).guardedWrite fun _ => rfl
    | wrCrcState v => exact (Isolated.writesCrc rfl rfl fun _ => v).guardedWrite fun _ => rfl
    | wrCrcValue v => exact (Isolated.writesCrc rfl rfl fun _ => crcExposed v).guardedWrite fun _ => rfl
    | wrCrcData8 v => exact (Isolated.writesCrc rfl rfl (crcByte · (lowByte v))).guardedWrite fun _ => rfl
    | wrCrcData32 v => exact (Isolated.writesCrc rfl rfl (crcUpdate · (bytesLE v))).guardedWrite fun _ => rfl
    | wrAdlerValue v => exact (Isolated.writesAdler rfl rfl fun _ => v).guardedWrite fun _ => rfl
    | wrAdlerData8 v => exact (Isolated.writesAdler rfl rfl (adlerByte · (lowByte v))).guardedWrite fun _ => rfl
    | wrAdlerData32 v => exact (Isolated.writesAdler rfl rfl (adlerUpdate · (bytesLE v))).guardedWrite fun _ => rfl
    | wrArg0 | wrArg1 | wrArg2 | wrBufAddr =>
      refine Isolated.guardedWrite ?_ fun _ => rfl
      exact ⟨fun _ => .of_same rfl rfl rfl rfl rfl, fun _ _ _ _ _ => rfl⟩
    | wrResLen | wrResTag | wrResData | wrResNext | wrResCrc | wrResCount | wrErrInfo =>
      exact (Isolated.unchanged _).guardedWrite fun _ => rfl
    | wrId | wrBufSize | wrRsv034 | wrRsv04C | wrRsv06C | wrRsv070 | wrRsv080 | wrRsv100 | wrRsv200 | wrRsv400
    | wrRsv800 => exact ⟨id, fun _ => rfl, .unchanged _⟩

/-- Settles O40: by the isolated effect of each operation; another ADLER_VALUE or CRC_STATE is a replacement of that
accumulator by a constant. -/
theorem enginesDoNotTouchEachOther : Obligations.EnginesDoNotTouchEachOther := by
  intro s t i hexec hsrst
  have hreset : isSoftReset i = false := by
    cases i with
    | wrCtrl v => exact hsrst
    | _ => rfl
  obtain ⟨f, hf, hisolated⟩ := exec_isolated i hreset
  rw [hf] at hexec
  cases hexec
  obtain ⟨hadler, hcrc, hmem, hres, hfound⟩ := hisolated.keeps s
  refine ⟨fun hi => hadler (updatesAdler_eq_false hi), fun hi => hcrc (updatesCrc_eq_false hi), fun hi a => ?_,
    fun hi c => ?_, fun hi => hmem (writesBuffer_eq_false hi), hres,
    fun hcontainer hchunk => hfound (isWalk_eq_false hcontainer hchunk)⟩
  · have hcarries := hisolated.carries id (fun _ => a) s (fun _ => rfl) (by simp [usesAdler_eq_false hi])
    exact (hf _).trans (congrArg _ hcarries)
  · have hcarries := hisolated.carries (fun _ => c) id s (by simp [usesCrc_eq_false hi]) fun _ => rfl
    exact (hf _).trans (congrArg _ hcarries)

end Sys2Proof.Machine

/-! PROOFS of the family 20_memory: a step refuses exactly the host accesses outside the interface (O5), the range rule and
CHUNK_BUILD's length test stop a command before it touches the buffer (O36), and no access of a busy block but a soft reset
touches what the command in flight works on (O57). -/

namespace Sys2Proof.Machine

/-! ### Which accesses the decoder turns away (20_memory.md R72, R73) -/

theorem portViolation_iff (width : AccessWidth) (off : Nat) :
    (∃ why, portViolation width off = some why) ↔ (width = .w8 ∨ width = .w16 ∨ off % 4 ≠ 0 ∨ 0x1000 ≤ off) := by
  cases width with
  | w8 | w16 => simp [portViolation]
  | w32 =>
    by_cases haligned : off % 4 = 0
    · by_cases hframe : 0x1000 ≤ off
      · simp [portViolation, haligned, hframe]
      · simp [portViolation, haligned, hframe]
    · simp [portViolation, haligned]

/-- A read and a write are turned away for the same widths and offsets, whatever is written. -/
theorem decodeAccess_error_iff {a : HostAccess} {width : AccessWidth} {off : Nat} {v : Word}
    (ha : a = .read width off ∨ a = .write width off v) :
    (∃ why, decodeAccess a = .error why) ↔ (width = .w8 ∨ width = .w16 ∨ off % 4 ≠ 0 ∨ 0x1000 ≤ off) := by
  rw [← portViolation_iff]
  rcases ha with rfl | rfl <;> cases hport : portViolation width off <;> simp [decodeAccess, hport]

/-- A host address below REG_BASE has no offset (log 2). -/
theorem decodeBus_below {b : BusAccess} {width : AccessWidth} {addr : Nat} {v : Word}
    (hb : b = .read width addr ∨ b = .write width addr v) (hbelow : addr < Config.regBase) :
    decodeBus b = .error .outsideFrame := by
  have hoffset : registerOffset addr = none := if_neg (Nat.not_le.2 hbelow)
  rcases hb with rfl | rfl <;> simp [decodeBus, BusAccess.inFrame, hoffset]

/-- From REG_BASE on, an access by host address is the bus form of the access at its offset (10_state.md R21). -/
theorem onBus_of_regBase_le {b : BusAccess} {width : AccessWidth} {addr : Nat} {v : Word}
    (hb : b = .read width addr ∨ b = .write width addr v) (hbase : Config.regBase ≤ addr) :
    ∃ a : HostAccess, b = a.onBus
      ∧ (a = .read width (addr - Config.regBase) ∨ a = .write width (addr - Config.regBase) v) := by
  have haddr : registerAddress (addr - Config.regBase) = addr := Nat.add_sub_cancel' hbase
  rcases hb with rfl | rfl
  · exact ⟨_, by rw [HostAccess.onBus, haddr], .inl rfl⟩
  · exact ⟨_, by rw [HostAccess.onBus, haddr], .inr rfl⟩

theorem decodeBus_error_iff {b : BusAccess} {width : AccessWidth} {addr : Nat} {v : Word}
    (hb : b = .read width addr ∨ b = .write width addr v) :
    (∃ why, decodeBus b = .error why) ↔
      (width = .w8 ∨ width = .w16 ∨ addr % 4 ≠ 0 ∨ addr < Config.regBase ∨ Config.regBase + 0x1000 ≤ addr) := by
  by_cases hbase : Config.regBase ≤ addr
  · obtain ⟨a, rfl, ha⟩ := onBus_of_regBase_le hb hbase
    have haligned : (addr - Config.regBase) % 4 = addr % 4 := by
      have := regBase_mod
      omega
    have hframe : 0x1000 ≤ addr - Config.regBase ↔ addr < Config.regBase ∨ Config.regBase + 0x1000 ≤ addr := by omega
    rw [decodeBus_onBus, decodeAccess_error_iff ha, haligned, hframe]
  · have hbelow : addr < Config.regBase := Nat.lt_of_not_le hbase
    exact iff_of_true ⟨_, decodeBus_below hb hbelow⟩ (.inr (.inr (.inr (.inl hbelow))))

/-! ### A refusal is a decoder's error -/

/-- Every instruction answers a next state, so an access is refused only where it decodes to none. -/
theorem perform_refused_iff (d : Except PortViolation Instr) (s : State) :
    (∃ why, perform d s = .refused why) ↔ ∃ why, d = .error why := by
  cases d with
  | error why => simp [perform]
  | ok i =>
    obtain ⟨t, ht⟩ := exec_answers i s
    simp [perform, ht]

theorem step_access {s : State} {a : HostAccess} {rest : List HostEvent} (hturn : s.engineTurn = false)
    (hin : s.inputs = .access a :: rest) : step s = perform (decodeAccess a) (s.accepting rest) := by
  simp [step, hturn, hin]

theorem step_bus {s : State} {b : BusAccess} {rest : List HostEvent} (hturn : s.engineTurn = false)
    (hin : s.inputs = .bus b :: rest) : step s = perform (decodeBus b) (s.accepting rest) := by
  simp [step, hturn, hin]

/-- Settles O5: a step refuses the access that stands first exactly where the decoder turns it away. -/
theorem outsideAccessesRefused : Obligations.OutsideAccessesRefused := by
  refine ⟨fun s width off v a rest ha hturn hin => ?_, regBase_mod, fun s width addr v b rest hb hturn hin => ?_⟩
  · rw [step_access hturn hin, perform_refused_iff, decodeAccess_error_iff ha]
  · rw [step_bus hturn hin, perform_refused_iff, decodeBus_error_iff hb]

/-! ### Commands whose operands name a byte past the buffer (20_memory.md R83, 60_exceptions.md R274) -/

theorem not_inRange_of_lt {s : State} {a n : Nat} (h : s.bufBytes < a + n) : ¬ s.inRange a n = true := by
  rw [inRange_iff]
  exact Nat.not_le.2 h

theorem sigWriteBody_outside (s : State) (h : s.bufBytes < s.argAddr + 8) :
    sigWriteBody s = .raised .range s.arg0 s := if_neg (not_inRange_of_lt h)

theorem sigCheckBody_outside (s : State) (h : s.bufBytes < s.argAddr + 8) :
    sigCheckBody s = .raised .range s.arg0 s := if_neg (not_inRange_of_lt h)

theorem chunkCheckBody_outside (s : State) (h : s.bufBytes < s.argAddr + s.argLen) :
    chunkCheckBody s = .raised .range s.arg0 (clearResults s) := if_neg (not_inRange_of_lt h)

theorem containerFindBody_outside (s : State) (h : s.bufBytes < s.argAddr + s.argLen) :
    containerFindBody s = .raised .range s.arg0 (clearResults s) := if_neg (not_inRange_of_lt h)

theorem chunkFindBody_outside (s : State) (h : s.bufBytes < s.argAddr + s.argLen) :
    chunkFindBody s = .raised .range s.arg0 (clearResults s) := if_neg (not_inRange_of_lt h)

/-- A command whose body raises takes the error in the state of the raise (60_exceptions.md R277). -/
theorem exec_of_raised {i : Instr} {s t : State} {e : ErrorCode} {info : Word} (hi : isCommand i = true)
    (hbody : bodyOf i s = .raised e info t) :
    exec i s = .next { t with status := t.status.failed e, errInfo := info } := by
  rw [exec_command i s hi, hbody, finish_raised]

/-- A frame command that raises before any record has left the result registers 0 (42_framing.md R198). -/
theorem exec_of_raised_cleared {i : Instr} {s : State} {e : ErrorCode} {info : Word} (hi : isCommand i = true)
    (hbody : bodyOf i s = .raised e info (clearResults s)) :
    exec i s = .next { s with res := {}, status := s.status.failed e, errInfo := info } :=
  exec_of_raised hi hbody

/-- Settles O36: each body tests its operands before it reads or writes a byte, the frame commands after clearing the
result registers. -/
theorem operandErrorsTaken : Obligations.OperandErrorsTaken := by
  intro s
  refine ⟨fun h => ⟨?_, ?_⟩, fun h => ?_, fun h => ?_, fun hlen h => ?_, fun hlen => ?_⟩
  · simp only [List.forall_mem_cons]
    exact ⟨exec_of_raised rfl (crcBufBody_outside false s h), exec_of_raised rfl (crcBufBody_outside true s h),
      exec_of_raised rfl (adlerBufBody_outside false s h), exec_of_raised rfl (adlerBufBody_outside true s h), nofun⟩
  · simp only [List.forall_mem_cons]
    exact ⟨exec_of_raised_cleared rfl (chunkCheckBody_outside s h),
      exec_of_raised_cleared rfl (containerFindBody_outside s h),
      exec_of_raised_cleared rfl (chunkFindBody_outside s h), nofun⟩
  · simp only [List.forall_mem_cons]
    exact ⟨exec_of_raised rfl (storeTrailer_outside _ s h), exec_of_raised rfl (checkTrailer_outside _ s h),
      exec_of_raised rfl (storeTrailer_outside _ s h), exec_of_raised rfl (checkTrailer_outside _ s h), nofun⟩
  · simp only [List.forall_mem_cons]
    exact ⟨exec_of_raised rfl (sigWriteBody_outside s h), exec_of_raised rfl (sigCheckBody_outside s h), nofun⟩
  · exact exec_of_raised_cleared rfl (chunkBuild_outside s hlen h)
  · exact exec_of_raised_cleared rfl (chunkBuild_badLength s hlen)

/-! ### Accesses while BUSY = 1 (20_memory.md R85, 43_control.md R262) -/

/-- `t` differs from `s` in CTRL, in STATUS other than BUSY, and in what the host last read, and in nothing else: the
command in flight, its operands and all that it works on are as before. -/
structure SparesCommand (s t : State) : Prop where
  same : t = { s with ctrl := t.ctrl, status := t.status, readData := t.readData }
  busy : t.status.busy = s.status.busy

theorem SparesCommand.refl (s : State) : SparesCommand s s := ⟨rfl, rfl⟩

theorem SparesCommand.returns (s : State) (v : Word) : SparesCommand s (s.returns v) := ⟨rfl, rfl⟩

theorem SparesCommand.accError (s : State) : SparesCommand s s.accError := ⟨rfl, rfl⟩

theorem SparesCommand.statusWrite (s : State) (v : Word) : SparesCommand s (statusWrite s v) := ⟨rfl, rfl⟩

theorem SparesCommand.withCtrl (s : State) (c : Ctrl) : SparesCommand s { s with ctrl := c } := ⟨rfl, rfl⟩

theorem exec_guardedRead_spares {i : Instr} {f : State → State} {s : State} (hbusy : s.status.busy = true)
    (hi : exec i s = guardedRead f s) : ∃ t, exec i s = .next t ∧ SparesCommand s t :=
  ⟨_, hi.trans (guardedRead_busy f s hbusy), rfl, rfl⟩

theorem exec_guardedWrite_spares {i : Instr} {f : State → State} {s : State} (hbusy : s.status.busy = true)
    (hi : exec i s = guardedWrite f s) : ∃ t, exec i s = .next t ∧ SparesCommand s t :=
  ⟨_, hi.trans (guardedWrite_busy f s hbusy), .accError s⟩

/-- While BUSY = 1 every register operation but a soft reset spares the command in flight: a guarded one is rejected
(43_control.md R262), and an open one reads, or writes CTRL, STATUS or nothing (43_control.md R245 to R250, R263). -/
theorem exec_busy_spares (i : Instr) {s : State} (hbusy : s.status.busy = true) (hi : isCommand i = false)
    (hsrst : ∀ v, i = .wrCtrl v → srstBit v = false) : ∃ t, exec i s = .next t ∧ SparesCommand s t := by
  cases i with
  | nop | crcReset | crcBuf | crcBufI | crcStore | crcCheck | adlerReset | adlerBuf | adlerBufI | adlerStore
  | adlerCheck | sigWrite | sigCheck | chunkBuild | chunkCheck | containerFind | chunkFind | illegal => cases hi
  | wrCtrl v => exact ⟨_, exec_wrCtrl_stores (hsrst v rfl) s, .withCtrl s _⟩
  | wrStatus v => exact ⟨_, exec_wrStatus v s, .statusWrite s v⟩
  | rdId | rdCtrl | rdStatus | rdBufSize | rdRsv034 | rdRsv04C | rdRsv06C | rdRsv070 | rdRsv080 | rdRsv100 | rdRsv200
  | rdRsv400 | rdRsv800 => exact ⟨_, rfl, .returns s _⟩
  | wrId | wrBufSize | wrRsv034 | wrRsv04C | wrRsv06C | wrRsv070 | wrRsv080 | wrRsv100 | wrRsv200 | wrRsv400
  | wrRsv800 => exact ⟨s, rfl, .refl s⟩
  | rdCmd | rdArg0 | rdArg1 | rdArg2 | rdCrcState | rdCrcValue | rdAdlerValue | rdBufAddr | rdBufData8 | rdBufData32
  | rdResLen | rdResTag | rdResData | rdResNext | rdResCrc | rdResCount | rdErrInfo | rdCrcData8 | rdCrcData32
  | rdAdlerData8 | rdAdlerData32 => exact exec_guardedRead_spares hbusy (by rfl)
  | wrCmd | wrArg0 | wrArg1 | wrArg2 | wrCrcState | wrCrcValue | wrCrcData8 | wrCrcData32 | wrAdlerValue | wrAdlerData8
  | wrAdlerData32 | wrBufAddr | wrBufData8 | wrBufData32 | wrResLen | wrResTag | wrResData | wrResNext | wrResCrc
  | wrResCount | wrErrInfo => exact exec_guardedWrite_spares hbusy (by rfl)

/-- Settles O57: by what a register operation of a busy block can do. -/
theorem busyAccessesKeepCommandInputs : Obligations.BusyAccessesKeepCommandInputs := by
  intro s t i hbusy hi hsrst hexec
  obtain ⟨u, hu, hspares⟩ := exec_busy_spares i hbusy hi hsrst
  rw [hu] at hexec
  cases hexec
  refine ⟨hspares.busy.trans hbusy, ?_⟩
  rw [hspares.same]
  exact ⟨rfl, rfl, rfl, rfl, rfl, rfl, rfl, rfl, rfl, rfl, rfl⟩

end Sys2Proof.Machine

/-! PROOFS of the family 30_encoding: the round trip (O1, O2), the illegal command words (O3) and words written out from
the spec (O4). Two facts about the decoder give all four: which words are no command of the map, and which index of a
reserved range an offset is. The converse round trip (O2) is the round trip (O1) and that the encoder reaches every
transaction of the interface. -/

namespace Sys2Proof.Machine

/-! ### The command words (30_encoding.md R102 to R110) -/

/-- What R107 to R109 leave legal: OP is in the map, INIT is set at most with CRC_BUF and ADLER_BUF, bits 31:9 are 0. -/
def LegalWord (w : Word) : Prop :=
  w.toNat % 2 ^ 8 ∈
      [0x00, 0x01, 0x02, 0x03, 0x04, 0x08, 0x09, 0x0A, 0x0B, 0x10, 0x11, 0x12, 0x13, 0x14, 0x15]
    ∧ ¬ (w.toNat / 2 ^ 8 % 2 = 1 ∧ w.toNat % 2 ^ 8 ≠ 0x02 ∧ w.toNat % 2 ^ 8 ≠ 0x09)
    ∧ w.toNat / 2 ^ 9 = 0

theorem opField_toNat (w : Word) : (opField w).toNat = w.toNat % 2 ^ 8 := by
  simp [opField, BitVec.extractLsb'_toNat]

theorem initField_eq (w : Word) : initField w = decide (w.toNat / 2 ^ 8 % 2 = 1) := by
  rw [initField, BitVec.getLsbD, Nat.testBit_eq_decide_div_mod_eq]

theorem rsvField_eq_zero_iff (w : Word) : rsvField w = 0 ↔ w.toNat / 2 ^ 9 = 0 := by
  have hw := w.isLt
  have hfield : (rsvField w).toNat = w.toNat / 2 ^ 9 := by
    rw [rsvField, BitVec.extractLsb'_toNat, Nat.shiftRight_eq_div_pow]
    omega
  rw [BitVec.toNat_eq, hfield]
  rfl

/-- The listed words are the legal ones: the OP and INIT of a legal word say which of the 17 it is. -/
theorem mem_commandWords_iff (w : Word) : w ∈ commandWords ↔ LegalWord w := by
  simp only [commandWords, LegalWord, List.mem_cons, List.not_mem_nil, or_false, BitVec.toNat_eq, BitVec.toNat_ofNat]
  omega

/-- An OP selects a command only where the map holds it, and with INIT set only for CRC_BUF and ADLER_BUF (R103). -/
theorem commandOf_eq_some {op : Byte} {init : Bool} {i : Instr} (h : commandOf op init = some i) :
    op.toNat ∈ [0x00, 0x01, 0x02, 0x03, 0x04, 0x08, 0x09, 0x0A, 0x0B, 0x10, 0x11, 0x12, 0x13, 0x14, 0x15]
      ∧ ¬ (init = true ∧ op.toNat ≠ 0x02 ∧ op.toNat ≠ 0x09) := by
  unfold commandOf at h
  split at h <;> simp_all

theorem decodeCommand_of_not_legal {w : Word} (h : ¬ LegalWord w) : decodeCommand w = .illegal w := by
  unfold decodeCommand
  split
  · rfl
  · next hrsv =>
    cases hop : commandOf (opField w) (initField w) with
    | none => rfl
    | some i =>
      obtain ⟨hlisted, hinit⟩ := commandOf_eq_some hop
      rw [opField_toNat] at hlisted hinit
      rw [initField_eq, decide_eq_true_iff] at hinit
      exact absurd ⟨hlisted, hinit, (rsvField_eq_zero_iff w).1 (not_not.1 hrsv)⟩ h

theorem illegal_wf_iff (w : Word) : (Instr.illegal w).wf = true ↔ ¬ LegalWord w := by
  simp [Instr.wf, ← mem_commandWords_iff]

/-! ### The words of a reserved range (10_state.md R52) -/

/-- The decoder's index of word `k` of the range that starts at `base`. -/
theorem index_of_rangeWord {n base : Nat} (k : BitVec n) : BitVec.ofNat n ((base + 4 * k.toNat - base) / 4) = k := by
  rw [Nat.add_sub_cancel_left, Nat.mul_div_cancel_left _ (by decide), BitVec.ofNat_toNat, BitVec.setWidth_eq]

/-- Every offset of the range is one of its words. -/
theorem exists_rangeWord (n : Nat) {base off : Nat} (hlo : base ≤ off) (hhi : off < base + 4 * 2 ^ n)
    (halign : (off - base) % 4 = 0) : ∃ k : BitVec n, off = base + 4 * k.toNat := by
  have hk : (off - base) / 4 < 2 ^ n := by omega
  refine ⟨BitVec.ofNat n ((off - base) / 4), ?_⟩
  rw [BitVec.toNat_ofNat, Nat.mod_eq_of_lt hk]
  omega

theorem decodeRead_reserved {off : Nat} (h : 0x070 ≤ off) : decodeRead off = decodeReservedRead off := by
  simp (disch := omega) only [decodeRead]

theorem decodeWrite_reserved {off : Nat} (h : 0x070 ≤ off) (v : Word) :
    decodeWrite off v = decodeReservedWrite off v := by
  simp (disch := omega) only [decodeWrite]

/-- Every reserved offset from 0x070 on is a word of one of the six ranges. -/
theorem exists_reservedWord {off : Nat} (halign : off % 4 = 0) (hlo : 0x070 ≤ off) (hhi : off < 0x1000) :
    (∃ k : BitVec 2, off = 0x070 + 4 * k.toNat)
      ∨ (∃ k : BitVec 5, off = 0x080 + 4 * k.toNat)
      ∨ (∃ k : BitVec 6, off = 0x100 + 4 * k.toNat)
      ∨ (∃ k : BitVec 7, off = 0x200 + 4 * k.toNat)
      ∨ (∃ k : BitVec 8, off = 0x400 + 4 * k.toNat)
      ∨ (∃ k : BitVec 9, off = 0x800 + 4 * k.toNat) := by
  rcases (by omega : off < 0x080 ∨ 0x080 ≤ off ∧ off < 0x100 ∨ 0x100 ≤ off ∧ off < 0x200
      ∨ 0x200 ≤ off ∧ off < 0x400 ∨ 0x400 ≤ off ∧ off < 0x800 ∨ 0x800 ≤ off)
    with h | ⟨hl, h⟩ | ⟨hl, h⟩ | ⟨hl, h⟩ | ⟨hl, h⟩ | hl
  · exact .inl (exists_rangeWord 2 hlo h (by omega))
  · exact .inr (.inl (exists_rangeWord 5 hl h (by omega)))
  · exact .inr (.inr (.inl (exists_rangeWord 6 hl h (by omega))))
  · exact .inr (.inr (.inr (.inl (exists_rangeWord 7 hl h (by omega)))))
  · exact .inr (.inr (.inr (.inr (.inl (exists_rangeWord 8 hl h (by omega))))))
  · exact .inr (.inr (.inr (.inr (.inr (exists_rangeWord 9 hl hhi (by omega))))))

theorem decode_rsv070 (k : BitVec 2) :
    decodeRead (0x070 + 4 * k.toNat) = .rdRsv070 k ∧ ∀ v, decodeWrite (0x070 + 4 * k.toNat) v = .wrRsv070 k v := by
  have := k.isLt
  simp (disch := omega) only [decodeRead_reserved, decodeWrite_reserved, decodeReservedRead, decodeReservedWrite,
    if_pos, index_of_rangeWord, implies_true, and_self]

theorem decode_rsv080 (k : BitVec 5) :
    decodeRead (0x080 + 4 * k.toNat) = .rdRsv080 k ∧ ∀ v, decodeWrite (0x080 + 4 * k.toNat) v = .wrRsv080 k v := by
  have := k.isLt
  simp (disch := omega) only [decodeRead_reserved, decodeWrite_reserved, decodeReservedRead, decodeReservedWrite,
    if_pos, if_neg, index_of_rangeWord, implies_true, and_self]

theorem decode_rsv100 (k : BitVec 6) :
    decodeRead (0x100 + 4 * k.toNat) = .rdRsv100 k ∧ ∀ v, decodeWrite (0x100 + 4 * k.toNat) v = .wrRsv100 k v := by
  have := k.isLt
  simp (disch := omega) only [decodeRead_reserved, decodeWrite_reserved, decodeReservedRead, decodeReservedWrite,
    if_pos, if_neg, index_of_rangeWord, implies_true, and_self]

theorem decode_rsv200 (k : BitVec 7) :
    decodeRead (0x200 + 4 * k.toNat) = .rdRsv200 k ∧ ∀ v, decodeWrite (0x200 + 4 * k.toNat) v = .wrRsv200 k v := by
  have := k.isLt
  simp (disch := omega) only [decodeRead_reserved, decodeWrite_reserved, decodeReservedRead, decodeReservedWrite,
    if_pos, if_neg, index_of_rangeWord, implies_true, and_self]

theorem decode_rsv400 (k : BitVec 8) :
    decodeRead (0x400 + 4 * k.toNat) = .rdRsv400 k ∧ ∀ v, decodeWrite (0x400 + 4 * k.toNat) v = .wrRsv400 k v := by
  have := k.isLt
  simp (disch := omega) only [decodeRead_reserved, decodeWrite_reserved, decodeReservedRead, decodeReservedWrite,
    if_pos, if_neg, index_of_rangeWord, implies_true, and_self]

theorem decode_rsv800 (k : BitVec 9) :
    decodeRead (0x800 + 4 * k.toNat) = .rdRsv800 k ∧ ∀ v, decodeWrite (0x800 + 4 * k.toNat) v = .wrRsv800 k v := by
  have := k.isLt
  simp (disch := omega) only [decodeRead_reserved, decodeWrite_reserved, decodeReservedRead, decodeReservedWrite,
    if_neg, index_of_rangeWord, implies_true, and_self]

/-! ### Accesses the decoder accepts (20_memory.md R72, R73) -/

theorem portViolation_eq_none_iff (width : AccessWidth) (off : Nat) :
    portViolation width off = none ↔ width = .w32 ∧ off % 4 = 0 ∧ off < 0x1000 := by
  rw [← not_iff_not, ← ne_eq, Option.ne_none_iff_exists', portViolation_iff]
  cases width with
  | w8 | w16 => simp
  | w32 =>
    simp only [reduceCtorEq, false_or, true_and]
    omega

theorem decode_read_iff {width : AccessWidth} {off : Nat} {i : Instr} :
    decode (.access (.read width off)) = .ok i
      ↔ Laws.insideInterface (.access (.read width off)) ∧ decodeRead off = i := by
  rw [Laws.insideInterface, ← portViolation_eq_none_iff]
  cases hport : portViolation width off <;> simp [decode, decodeAccess, hport]

theorem decode_write_iff {width : AccessWidth} {off : Nat} {v : Word} {i : Instr} :
    decode (.access (.write width off v)) = .ok i
      ↔ Laws.insideInterface (.access (.write width off v)) ∧ decodeWrite off v = i := by
  rw [Laws.insideInterface, ← portViolation_eq_none_iff]
  cases hport : portViolation width off <;> simp [decode, decodeAccess, hport]

/-! ### The round trip (30_encoding.md R106, R110, R111; 10_state.md R21) -/

/-- The rows with one word of their own evaluate; the others are an illegal word and the words of a reserved range. -/
theorem decode_encode {i : Instr} (hwf : i.wf = true) : decode (encode i) = .ok i := by
  cases i with
  | illegal w => exact congrArg Except.ok (decodeCommand_of_not_legal ((illegal_wf_iff w).1 hwf))
  | rdRsv070 k => exact decode_read_iff.2 ⟨Laws.Encoded.rdRsv070 k, (decode_rsv070 k).1⟩
  | rdRsv080 k => exact decode_read_iff.2 ⟨Laws.Encoded.rdRsv080 k, (decode_rsv080 k).1⟩
  | rdRsv100 k => exact decode_read_iff.2 ⟨Laws.Encoded.rdRsv100 k, (decode_rsv100 k).1⟩
  | rdRsv200 k => exact decode_read_iff.2 ⟨Laws.Encoded.rdRsv200 k, (decode_rsv200 k).1⟩
  | rdRsv400 k => exact decode_read_iff.2 ⟨Laws.Encoded.rdRsv400 k, (decode_rsv400 k).1⟩
  | rdRsv800 k => exact decode_read_iff.2 ⟨Laws.Encoded.rdRsv800 k, (decode_rsv800 k).1⟩
  | wrRsv070 k v => exact decode_write_iff.2 ⟨Laws.Encoded.wrRsv070 k v, (decode_rsv070 k).2 v⟩
  | wrRsv080 k v => exact decode_write_iff.2 ⟨Laws.Encoded.wrRsv080 k v, (decode_rsv080 k).2 v⟩
  | wrRsv100 k v => exact decode_write_iff.2 ⟨Laws.Encoded.wrRsv100 k v, (decode_rsv100 k).2 v⟩
  | wrRsv200 k v => exact decode_write_iff.2 ⟨Laws.Encoded.wrRsv200 k v, (decode_rsv200 k).2 v⟩
  | wrRsv400 k v => exact decode_write_iff.2 ⟨Laws.Encoded.wrRsv400 k v, (decode_rsv400 k).2 v⟩
  | wrRsv800 k v => exact decode_write_iff.2 ⟨Laws.Encoded.wrRsv800 k v, (decode_rsv800 k).2 v⟩
  | _ => rfl

/-- Settles O1: the decoder undoes the encoder, row by row. -/
theorem decodeOfEncode : Obligations.DecodeOfEncode := fun _ => decode_encode

theorem encode_decodeCommand (w : Word) :
    encode (decodeCommand w) = .command w ∧ (decodeCommand w).wf = true := by
  by_cases hlegal : LegalWord w
  · have hmap : ∀ w ∈ commandWords, encode (decodeCommand w) = .command w ∧ (decodeCommand w).wf = true := by
      intro w hw
      unfold commandWords at hw
      fin_cases hw <;> exact ⟨rfl, rfl⟩
    exact hmap w ((mem_commandWords_iff w).2 hlegal)
  · rw [decodeCommand_of_not_legal hlegal]
    exact ⟨rfl, (illegal_wf_iff w).2 hlegal⟩

/-- What an offset of the frame is read as and written as encodes to that read and that write. -/
theorem encode_decodeOffset {off : Nat} (halign : off % 4 = 0) (hframe : off < 0x1000) :
    encode (decodeRead off) = readAt off ∧ ∀ v, encode (decodeWrite off v) = writeAt off v := by
  by_cases hmap : off < 0x070
  · obtain ⟨k, rfl⟩ := Nat.dvd_of_mod_eq_zero halign
    have hk : k < 28 := by omega
    interval_cases k <;> exact ⟨rfl, fun _ => rfl⟩
  · have hreserved : 0x070 ≤ off := Nat.le_of_not_lt hmap
    rcases exists_reservedWord halign hreserved hframe with
      ⟨k, rfl⟩ | ⟨k, rfl⟩ | ⟨k, rfl⟩ | ⟨k, rfl⟩ | ⟨k, rfl⟩ | ⟨k, rfl⟩
    · simp [decode_rsv070, encode]
    · simp [decode_rsv080, encode]
    · simp [decode_rsv100, encode]
    · simp [decode_rsv200, encode]
    · simp [decode_rsv400, encode]
    · simp [decode_rsv800, encode]

/-- Only an illegal command can be ill formed, and it encodes to a command word. -/
theorem wf_of_encode_access {i : Instr} {a : HostAccess} (h : encode i = .access a) : i.wf = true := by
  cases i with
  | illegal w => cases h
  | _ => rfl

theorem encode_decode {t : Transaction} {i : Instr} (h : decode t = .ok i) : encode i = t ∧ i.wf = true := by
  cases t with
  | command w =>
    cases h
    exact encode_decodeCommand w
  | access a =>
    have hencode : encode i = .access a := by
      cases a with
      | read width off =>
        obtain ⟨⟨rfl, halign, hframe⟩, rfl⟩ := decode_read_iff.1 h
        exact (encode_decodeOffset halign hframe).1
      | write width off v =>
        obtain ⟨⟨rfl, halign, hframe⟩, rfl⟩ := decode_write_iff.1 h
        exact (encode_decodeOffset halign hframe).2 v
    exact ⟨hencode, wf_of_encode_access hencode⟩

/-- Settles O2: the encoder undoes the decoder, on command words and on the accesses that it accepts. -/
theorem encodeOfDecode : Obligations.EncodeOfDecode := fun _ _ => encode_decode

/-! ### Illegal command words (30_encoding.md R107 to R109) -/

/-- A command decoded as illegal is well formed and encodes to its word, so that word was not legal. -/
theorem decodeCommand_ne_illegal {w : Word} (hlegal : LegalWord w) (v : Word) : decodeCommand w ≠ .illegal v := by
  intro h
  obtain ⟨hencode, hwf⟩ := encode_decodeCommand w
  rw [h] at hencode hwf
  cases hencode
  exact (illegal_wf_iff w).1 hwf hlegal

theorem exec_illegal (w : Word) (s : State) :
    exec (.illegal w) s = .next { s with status := s.status.failed .badCommand, errInfo := w } := by
  rw [exec_command _ _ rfl, bodyOf, finish_raised]

/-- Settles O3: a word is illegal for one of the three reasons exactly where it is not legal. -/
theorem illegalWordsComplete : Obligations.IllegalWordsComplete := by
  intro s w listed initBad
  refine ⟨fun hbad => ?_, fun hlegal => ⟨(mem_commandWords_iff w).2 hlegal, decodeCommand_ne_illegal hlegal⟩⟩
  have hillegal : ¬ LegalWord w := by
    rintro ⟨hlisted, hinit, hrsv⟩
    rcases hbad with hop | hinitBad | hrsvSet
    · exact hop hlisted
    · exact hinit hinitBad
    · exact hrsvSet hrsv
  exact ⟨decodeCommand_of_not_legal hillegal, exec_illegal w s⟩

/-! ### Words of the opcode table (30_encoding.md R106, R111, log 11) -/

theorem decodeTableWord_of_command {i : Instr} {n : Nat} (hwf : i.wf = true)
    (h : encode i = .command (BitVec.ofNat 32 n)) : decodeTableWord 32 n = some i := by
  have hdecode : decode (.command (BitVec.ofNat 32 n)) = .ok i := h ▸ decode_encode hwf
  cases hdecode
  rfl

theorem decodeTableWord_of_access {i : Instr} {n : Nat} (h : encode i = .access (accessOfBits n)) :
    decodeTableWord 16 n = some i := by
  have hdecode : decodeAccess (accessOfBits n) = .ok i := (h ▸ decode_encode (wf_of_encode_access h) :)
  simp [decodeTableWord, hdecode, Except.toOption]

/-- Settles O4: each word is the encoding of its instruction. -/
theorem specWordsDecode : Obligations.SpecWordsDecode :=
  ⟨decodeTableWord_of_command rfl rfl, decodeTableWord_of_command rfl rfl, decodeTableWord_of_command rfl rfl,
    decodeTableWord_of_access rfl, decodeTableWord_of_access rfl, decodeTableWord_of_access rfl⟩

end Sys2Proof.Machine

/-! PROOFS of the family 40_crc: the table and the byte update (O12, O13), the accumulator commands in range (O14 to O19),
the host's reads and writes of registers and ports while idle (O41, O43, O44), and how a word and a seed come back (O51,
O52). That shifting is linear gives the byte update; that an engine fed `d` and then `e` was fed `d ++ e` gives every
split of a sequence. -/

namespace Sys2Proof.Machine

/-! ### The table (40_crc.md R131, R132) -/

/-- The entries of the table from `a` on. -/
def crcEntries (a n : Nat) : List Word := (List.range' a n).map fun k => crcTable (BitVec.ofNat 8 k)

theorem crcEntries_append (a n m : Nat) : crcEntries a n ++ crcEntries (a + n) m = crcEntries a (n + m) := by
  simp only [crcEntries, ← List.map_append, List.range'_append_1]

theorem crcListing0_eq : crcListing0 = crcEntries 0x00 0x40 := by decide
theorem crcListing1_eq : crcListing1 = crcEntries 0x40 0x40 := by decide
theorem crcListing2_eq : crcListing2 = crcEntries 0x80 0x40 := by decide
theorem crcListing3_eq : crcListing3 = crcEntries 0xC0 0x40 := by decide

theorem crcListing_eq : crcListing = crcEntries 0 256 := by
  rw [crcListing, crcListing0_eq, crcListing1_eq, crcListing2_eq, crcListing3_eq]
  simp only [crcEntries_append 0, Nat.reduceAdd]

/-- Settles O12: each quarter of the listing evaluates to the entries that the rule generates. -/
theorem crcTableIsTheListing : Obligations.CrcTableIsTheListing := by
  rw [Obligations.CrcTableIsTheListing, crcListing_eq]
  refine ⟨by simp [crcEntries], fun n => ?_⟩
  have hentry : (List.range' 0 256)[n.toNat]? = some n.toNat := by simp [n.isLt]
  simp [crcEntries, hentry]

/-! ### One byte by the table (40_crc.md R130, R131, R134) -/

/-- Shifting is linear: the polynomial goes in once for each operand whose low bit is set. -/
theorem crcShift_xor (v w : Word) : crcShift (v ^^^ w) = crcShift v ^^^ crcShift w := by
  simp only [crcShift, BitVec.getLsbD_xor, BitVec.ushiftRight_xor_distrib]
  cases v.getLsbD 0 <;> cases w.getLsbD 0
  · simp
  · simp [BitVec.xor_assoc]
  · simp only [Bool.bne_false, if_true, Bool.false_eq_true, if_false]
    ac_rfl
  · simp only [bne_self_eq_false, Bool.false_eq_true, if_false, if_true]
    rw [BitVec.xor_assoc, BitVec.xor_comm crcPoly, BitVec.xor_assoc, BitVec.xor_self, BitVec.xor_zero]

theorem repeat_crcShift_xor (n : Nat) (v w : Word) :
    Nat.repeat crcShift n (v ^^^ w) = Nat.repeat crcShift n v ^^^ Nat.repeat crcShift n w := by
  induction n with
  | zero => rfl
  | succ n ih => simp only [Nat.repeat, ih, crcShift_xor]

/-- As long as only zeros are shifted out, the polynomial stays out. -/
theorem repeat_crcShift_of_zeros (n : Nat) (v : Word) (h : ∀ i < n, v.getLsbD i = false) :
    Nat.repeat crcShift n v = v >>> n := by
  induction n with
  | zero => simp [Nat.repeat]
  | succ n ih =>
    have hout : v.getLsbD n = false := h n (Nat.lt_succ_self n)
    rw [Nat.repeat, ih fun i hi => h i (Nat.lt_succ_of_lt hi), crcShift, if_neg (by simp [hout]),
      BitVec.shiftRight_add]

theorem crcTable_eq_repeat (n : Byte) : crcTable n = Nat.repeat crcShift 8 (n.setWidth 32) := rfl

/-- A word is its low byte and the bits above it. -/
theorem lowByte_xor_rest (v : Word) : (lowByte v).setWidth 32 ^^^ (v >>> 8 <<< 8) = v := by
  refine BitVec.eq_of_getLsbD_eq fun i hi => ?_
  simp only [lowByte, BitVec.getLsbD_xor, BitVec.getLsbD_setWidth, BitVec.getLsbD_extractLsb', BitVec.getLsbD_shiftLeft,
    BitVec.getLsbD_ushiftRight]
  by_cases hlow : i < 8
  · simp [hlow, hi]
  · simp [hlow, hi, Nat.add_sub_cancel' (Nat.le_of_not_lt hlow)]

/-- Eight steps look up the low byte and shift the rest out. -/
theorem repeat_crcShift_eight (v : Word) : Nat.repeat crcShift 8 v = crcTable (lowByte v) ^^^ (v >>> 8) := by
  have hrest : Nat.repeat crcShift 8 (v >>> 8 <<< 8) = v >>> 8 := by
    rw [repeat_crcShift_of_zeros 8 _ fun i hi => by simp [hi]]
    refine BitVec.eq_of_getLsbD_eq fun i _ => ?_
    simpa using BitVec.lt_of_getLsbD (x := v) (i := 8 + i)
  conv_lhs => rw [← lowByte_xor_rest v]
  rw [repeat_crcShift_xor, hrest, crcTable_eq_repeat]

/-- Settles O13: eight steps on the state with the byte in its low bits; above those bits it is the state. -/
theorem crcByteIsEightBitSteps : Obligations.CrcByteIsEightBitSteps := by
  intro s x
  have hbyte : x.setWidth 32 >>> 8 = 0#32 := by
    have hx : x.toNat < 2 ^ 8 := x.isLt
    rw [BitVec.toNat_eq, BitVec.toNat_ushiftRight, BitVec.toNat_setWidth_of_le (by decide),
      Nat.shiftRight_eq_div_pow, Nat.div_eq_of_lt hx]
    rfl
  rw [repeat_crcShift_eight, BitVec.ushiftRight_xor_distrib, hbyte, BitVec.xor_zero]
  rfl

/-! ### Commands that end without an error -/

theorem exec_of_done {i : Instr} {s t : State} (hi : isCommand i = true) (hbody : bodyOf i s = .done () t) :
    exec i s = .next { t with status := t.status.succeeded } := by
  rw [exec_command i s hi, hbody, finish_done]

/-- Settles O15: each body is done at once. -/
theorem resetsAndNopComplete : Obligations.ResetsAndNopComplete := fun s =>
  ⟨exec_of_done (t := s) rfl rfl, exec_of_done (t := { s with crcState := crcInit }) rfl rfl,
    exec_of_done (t := { s with adlerValue := adlerInit }) rfl rfl⟩

/-- Settles O16: the bytes are those of the body's one read. -/
theorem crcBufCompletes : Obligations.CrcBufCompletes := fun s hin =>
  ⟨s.memRead s.argAddr s.argLen, s.draws + 1, length_memRead s _ _, admits_memRead s _ _,
    exec_of_done (i := .crcBuf) rfl (crcBufBody_inside false s hin),
    exec_of_done (i := .crcBufI) rfl (crcBufBody_inside true s hin)⟩

/-! ### Trailers (40_crc.md R139, R140; 41_rolling.md R167, R168) -/

/-- A command whose body stores the trailer `v`. -/
theorem exec_of_storeTrailer {i : Instr} {s : State} {v : Word} (hi : isCommand i = true)
    (hbody : bodyOf i s = storeTrailer v s) (hin : s.argAddr + 4 ≤ s.bufBytes) :
    exec i s = .next { s with mem := s.mem.write s.argAddr (bytesBE v), status := s.status.succeeded } :=
  exec_of_done hi (hbody.trans (storeTrailer_inside v s hin))

/-- Settles O17: the body's one write. -/
theorem trailerStoresComplete : Obligations.TrailerStoresComplete := by
  intro s hin
  refine ⟨⟨_, exec_of_storeTrailer rfl rfl hin, ?_⟩, ⟨_, exec_of_storeTrailer rfl rfl hin, ?_⟩⟩
  · rw [crcExposed_eq_not]
    exact Memory.stored_write _ _ _
  · exact Memory.stored_write _ _ _

theorem exec_of_checkTrailer_eq {i : Instr} {s : State} {v : Word} (hi : isCommand i = true)
    (hbody : bodyOf i s = checkTrailer v s) (hin : s.argAddr + 4 ≤ s.bufBytes) (heq : s.readBE32 s.argAddr = v) :
    exec i s = .next { s with status := s.status.succeeded, draws := s.draws + 1 } :=
  exec_of_done hi (by rw [hbody, checkTrailer_inside v s hin, if_pos heq])

theorem exec_of_checkTrailer_ne {i : Instr} {s : State} {v : Word} (hi : isCommand i = true)
    (hbody : bodyOf i s = checkTrailer v s) (hin : s.argAddr + 4 ≤ s.bufBytes) (hne : s.readBE32 s.argAddr ≠ v) :
    exec i s = .next { s with
      status := s.status.failed .invalidChecksum, errInfo := s.arg0, draws := s.draws + 1 } :=
  exec_of_raised hi (by rw [hbody, checkTrailer_inside v s hin, if_neg hne])

/-- Settles O18: the four bytes are those of the body's one read. -/
theorem trailerChecksComplete : Obligations.TrailerChecksComplete := by
  intro s hin
  have hword := packBE_eq_append (s.peek s.argAddr) (s.peek (s.argAddr + 1)) (s.peek (s.argAddr + 2))
    (s.peek (s.argAddr + 3))
  refine ⟨_, _, _, _, s.draws + 1, admits_memRead s s.argAddr 4, ?_⟩
  rw [← hword, ← crcExposed_eq_not]
  exact ⟨exec_of_checkTrailer_eq rfl rfl hin, exec_of_checkTrailer_ne rfl rfl hin,
    exec_of_checkTrailer_eq rfl rfl hin, exec_of_checkTrailer_ne rfl rfl hin⟩

/-- A check by the trailer that was stored succeeds: it reads what was written. -/
theorem execAll_store_check {store check : Instr} {s : State} {v : Word} (hstore : isCommand store = true)
    (hcheck : isCommand check = true) (hstores : bodyOf store s = storeTrailer v s)
    (hchecks : ∀ m t, bodyOf check { s with mem := m, status := t } = checkTrailer v { s with mem := m, status := t })
    (hin : s.argAddr + 4 ≤ s.bufBytes) :
    ∃ t, execAll [store, check] s = .next t ∧ t.status = s.status.succeeded ∧ t.errInfo = s.errInfo := by
  let m := s.mem.write s.argAddr (bytesBE v)
  have hread := readBE32_of_holds_bytesBE { s with mem := m, status := s.status.succeeded } s.argAddr v
    (Memory.holds_write s.mem s.argAddr (bytesBE v))
  have hsucceeds := exec_of_checkTrailer_eq hcheck (hchecks m s.status.succeeded) hin hread
  rw [execAll_cons _ (exec_of_storeTrailer hstore hstores hin), execAll_cons _ hsucceeds]
  exact ⟨_, rfl, rfl, rfl⟩

/-- Settles O19: storing changes neither accumulator. -/
theorem storedTrailersCheck : Obligations.StoredTrailersCheck := fun _ hin =>
  ⟨execAll_store_check rfl rfl rfl (fun _ _ => rfl) hin, execAll_store_check rfl rfl rfl (fun _ _ => rfl) hin⟩

/-! ### Registers and ports while idle (43_control.md R251 to R264) -/

theorem exec_read_idle {i : Instr} {f : State → State} {s : State} (hi : exec i s = guardedRead f s)
    (hidle : s.status.busy = false) : exec i s = .next (f s) := hi.trans (guardedRead_idle f s hidle)

theorem exec_write_idle {i : Instr} {f : State → State} {s : State} (hi : exec i s = guardedWrite f s)
    (hidle : s.status.busy = false) : exec i s = .next (f s) := hi.trans (guardedWrite_idle f s hidle)

/-- Settles O41: each is a guarded read of its register; CRC_VALUE is the complement of CRC_STATE. -/
theorem idleReadsReturnRegisters : Obligations.IdleReadsReturnRegisters := by
  intro s hidle
  rw [← crcExposed_eq_not]
  simp only [List.forall_mem_cons]
  exact ⟨exec_read_idle (exec_rdArg0 s) hidle, exec_read_idle (exec_rdArg1 s) hidle,
    exec_read_idle (exec_rdArg2 s) hidle, exec_read_idle (exec_rdCrcState s) hidle,
    exec_read_idle (exec_rdCrcValue s) hidle, exec_read_idle (exec_rdAdlerValue s) hidle,
    exec_read_idle (exec_rdBufAddr s) hidle, exec_read_idle (exec_rdResLen s) hidle,
    exec_read_idle (exec_rdResTag s) hidle, exec_read_idle (exec_rdResData s) hidle,
    exec_read_idle (exec_rdResNext s) hidle, exec_read_idle (exec_rdResCrc s) hidle,
    exec_read_idle (exec_rdResCount s) hidle, exec_read_idle (exec_rdErrInfo s) hidle,
    exec_read_idle (exec_rdCmd s) hidle, exec_read_idle (exec_rdCrcData8 s) hidle,
    exec_read_idle (exec_rdCrcData32 s) hidle, exec_read_idle (exec_rdAdlerData8 s) hidle,
    exec_read_idle (exec_rdAdlerData32 s) hidle, nofun⟩

/-- Settles O43: each is a guarded write of its register; CRC_VALUE stores the complement. -/
theorem idleWritesStore : Obligations.IdleWritesStore := by
  intro s v hidle
  rw [← crcExposed_eq_not]
  exact ⟨exec_write_idle (exec_wrArg0 v s) hidle, exec_write_idle (exec_wrArg1 v s) hidle,
    exec_write_idle (exec_wrArg2 v s) hidle, exec_write_idle (exec_wrCrcState v s) hidle,
    exec_write_idle (exec_wrCrcValue v s) hidle, exec_write_idle (exec_wrAdlerValue v s) hidle,
    exec_write_idle (exec_wrBufAddr v s) hidle⟩

theorem lowByte_eq_ofNat (v : Word) : lowByte v = BitVec.ofNat 8 v.toNat := by
  simp [lowByte, BitVec.extractLsb']

theorem bytesLE_append (b3 b2 b1 b0 : Byte) : bytesLE (b3 ++ b2 ++ b1 ++ b0) = [b0, b1, b2, b3] := by
  obtain ⟨h0, h1, h2, h3⟩ := extract_append b3 b2 b1 b0
  rw [bytesLE, h0, h1, h2, h3]

/-- Settles O44: what each port feeds is the low byte, or the four bytes of the concatenation from its end. -/
theorem dataPortsFeed : Obligations.DataPortsFeed := by
  intro s v hidle
  rw [← lowByte_eq_ofNat]
  refine ⟨exec_write_idle (exec_wrCrcData8 v s) hidle, exec_write_idle (exec_wrAdlerData8 v s) hidle, ?_⟩
  rintro b3 b2 b1 b0 rfl
  have hcrc := exec_write_idle (exec_wrCrcData32 (b3 ++ b2 ++ b1 ++ b0) s) hidle
  have hadler := exec_write_idle (exec_wrAdlerData32 (b3 ++ b2 ++ b1 ++ b0) s) hidle
  rw [bytesLE_append] at hcrc hadler
  exact ⟨hcrc, hadler⟩

/-! ### Feeding an engine, part by part (40_crc.md R147) -/

/-- The operations from `s` to `t` fed the bytes `d` to the engine whose accumulator is `acc` and whose byte update is
`upd`, and left the buffer, the result registers and the other engine's accumulator, `other`, as they were. -/
structure Fed (acc other : State → Word) (upd : Word → Byte → Word) (s : State) (d : List Byte) (t : State) : Prop where
  fed : acc t = d.foldl upd (acc s)
  other : other t = other s
  mem : t.mem = s.mem
  res : t.res = s.res
  bufSize : t.bufSize = s.bufSize
  idle : t.status.busy = false

section
variable {acc other : State → Word} {upd : Word → Byte → Word}

theorem Fed.nil {s : State} (hidle : s.status.busy = false) : Fed acc other upd s [] s :=
  ⟨rfl, rfl, rfl, rfl, rfl, hidle⟩

theorem Fed.append {s t u : State} {d e : List Byte} (hd : Fed acc other upd s d t) (he : Fed acc other upd t e u) :
    Fed acc other upd s (d ++ e) u where
  fed := by rw [he.fed, hd.fed, List.foldl_append]
  other := he.other.trans hd.other
  mem := he.mem.trans hd.mem
  res := he.res.trans hd.res
  bufSize := he.bufSize.trans hd.bufSize
  idle := he.idle

/-- A part that was ready stays ready while others are fed. -/
theorem Fed.ready {s t : State} {d : List Byte} (h : Fed acc other upd s d t) (f : Feed) : f.ready t = f.ready s := by
  cases f with
  | buf a d => rw [Feed.ready, State.bufBytes, h.mem, h.bufSize, Feed.ready, State.bufBytes]
  | data8 v => rfl
  | data32 v => rfl

/-- Where each part can be fed, they can be fed in order. -/
theorem execAll_feeds {ops : Feed → List Instr}
    (hpart : ∀ (f : Feed) (s : State), s.status.busy = false → f.ready s = true →
      ∃ t, execAll (ops f) s = .next t ∧ Fed acc other upd s f.bytes t)
    (parts : List Feed) (s : State) (hidle : s.status.busy = false) (hready : ∀ f ∈ parts, f.ready s = true) :
    ∃ t, execAll (parts.flatMap ops) s = .next t ∧ Fed acc other upd s (parts.flatMap Feed.bytes) t := by
  induction parts generalizing s with
  | nil => exact ⟨s, rfl, .nil hidle⟩
  | cons f parts ih =>
    obtain ⟨hf, hparts⟩ := List.forall_mem_cons.1 hready
    obtain ⟨t, ht, hfed⟩ := hpart f s hidle hf
    obtain ⟨u, hu, hrest⟩ := ih t hfed.idle fun g hg => (hfed.ready g).trans (hparts g hg)
    exact ⟨u, by rw [List.flatMap_cons, execAll_append _ ht, hu], hfed.append hrest⟩

end

/-- The host's three writes that start a command at `a` over `n` bytes. -/
theorem execAll_start (is : List Instr) (s : State) (a n w : Word) (hidle : s.status.busy = false) :
    execAll (.wrArg0 a :: .wrArg1 n :: .wrCmd w :: is) s
      = execAll is (startCommand { s with arg0 := a, arg1 := n } w) := by
  let t : State := { s with arg0 := a }
  let u : State := { t with arg1 := n }
  have h0 : exec (.wrArg0 a) s = .next t := exec_write_idle (exec_wrArg0 a s) hidle
  have h1 : exec (.wrArg1 n) t = .next u := exec_write_idle (exec_wrArg1 n t) hidle
  have hcmd : exec (.wrCmd w) u = .next (startCommand u w) := exec_write_idle (exec_wrCmd w u) hidle
  rw [execAll_cons _ h0, execAll_cons _ h1, execAll_cons _ hcmd]

/-- A part of the buffer is short enough for its length to stand in ARG1. -/
theorem toNat_ofNat_of_fits {s : State} {a n : Nat} (hin : a + n ≤ s.bufBytes) : (BitVec.ofNat 32 n).toNat = n := by
  have hsize : s.bufBytes < 2 ^ 32 := s.bufSize.isLt
  rw [BitVec.toNat_ofNat, Nat.mod_eq_of_lt (by omega)]

/-- CRC_BUF over written bytes feeds them, whatever ARG0, ARG1 and the last command were. -/
theorem execAll_crcBuf_fed (s : State) (a : Word) (d : List Byte) (hidle : s.status.busy = false)
    (hin : a.toNat + d.length ≤ s.bufBytes) (hheld : s.mem.holds a.toNat d = true) :
    ∃ t, execAll (Feed.buf a d).toCrc s = .next t ∧ Fed State.crcState State.adlerValue crcByte s d t := by
  let u := startCommand { s with arg0 := a, arg1 := BitVec.ofNat 32 d.length } 0x00000002#32
  have hlen : u.argLen = d.length := toNat_ofNat_of_fits hin
  have hread : u.memRead u.argAddr u.argLen = d := memRead_of_holds u _ _ d hlen.symm hheld
  have hcomplete := exec_of_done (i := .crcBuf) rfl (crcBufBody_inside false u (by rw [hlen]; exact hin))
  rw [hread] at hcomplete
  rw [Feed.toCrc, execAll_start _ _ _ _ _ hidle, execAll_cons _ hcomplete]
  exact ⟨_, rfl, rfl, rfl, rfl, rfl, rfl, rfl⟩

theorem feed_toCrc_fed (f : Feed) (s : State) (hidle : s.status.busy = false) (hready : f.ready s = true) :
    ∃ t, execAll f.toCrc s = .next t ∧ Fed State.crcState State.adlerValue crcByte s f.bytes t := by
  cases f with
  | buf a d =>
    obtain ⟨hin, hheld⟩ := Bool.and_eq_true_iff.1 hready
    exact execAll_crcBuf_fed s a d hidle (of_decide_eq_true hin) hheld
  | data8 v =>
    exact ⟨_, execAll_cons [] (exec_write_idle (exec_wrCrcData8 v s) hidle), rfl, rfl, rfl, rfl, rfl, hidle⟩
  | data32 v =>
    exact ⟨_, execAll_cons [] (exec_write_idle (exec_wrCrcData32 v s) hidle), rfl, rfl, rfl, rfl, rfl, hidle⟩

/-- Settles O14: each part is fed from wherever the parts before it left the engine. -/
theorem crcFeedsInAnyChunking : Obligations.CrcFeedsInAnyChunking := by
  intro s parts hidle hready
  obtain ⟨t, ht, hfed⟩ := execAll_feeds feed_toCrc_fed parts s hidle hready
  exact ⟨t, ht, hfed.fed, hfed.mem, hfed.other, hfed.res, hfed.idle⟩

/-! ### A word through the window, and a seed (40_crc.md R143, R144, R146; 43_control.md R257, R258) -/

theorem exec_wrBufData32_inside (s : State) (v : Word) (hidle : s.status.busy = false)
    (hin : s.bufAddr.toNat + 4 ≤ s.bufBytes) :
    exec (.wrBufData32 v) s = .next { s with
      mem := s.mem.write s.bufAddr.toNat (bytesLE v), bufAddr := s.bufAddr + 4#32 } := by
  rw [exec_write_idle (exec_wrBufData32 v s) hidle, windowWrite_inside (bytesLE v) s hin]
  rfl

theorem exec_rdBufData32_of_holds (s : State) (v : Word) (hidle : s.status.busy = false)
    (hin : s.bufAddr.toNat + 4 ≤ s.bufBytes) (hheld : s.mem.holds s.bufAddr.toNat (bytesLE v) = true) :
    exec .rdBufData32 s = .next { s with readData := v, draws := s.draws + 1, bufAddr := s.bufAddr + 4#32 } := by
  rw [exec_read_idle (exec_rdBufData32 s) hidle, windowRead_inside 4 s hin,
    memRead_of_holds s _ 4 (bytesLE v) rfl hheld, packLE_bytesLE]

/-- Settles O51: the word is held as its bytes, least significant first, and these are read, fed by the port, and fed by
the command in the order of their addresses. -/
theorem windowWordsRoundTrip : Obligations.WindowWordsRoundTrip := by
  intro s v hidle hin
  let m := s.mem.write s.bufAddr.toNat (bytesLE v)
  let t : State := { s with mem := m, readData := v, draws := s.draws + 1, bufAddr := s.bufAddr + 4#32 }
  have hheld : m.holds s.bufAddr.toNat (bytesLE v) = true := Memory.holds_write s.mem _ _
  let u : State := { s with mem := m, bufAddr := s.bufAddr + 4#32 }
  have hback : exec (.wrBufAddr s.bufAddr) u = .next { s with mem := m } :=
    exec_write_idle (exec_wrBufAddr s.bufAddr u) hidle
  have hread : exec .rdBufData32 { s with mem := m } = .next t := exec_rdBufData32_of_holds _ v hidle hin hheld
  have hport := exec_write_idle (exec_wrCrcData32 v t) hidle
  obtain ⟨w, hw, hfed⟩ := execAll_crcBuf_fed t s.bufAddr (bytesLE v) hidle hin hheld
  refine ⟨t, _, w, ?_, rfl, hport, hw, hfed.fed.symm⟩
  rw [execAll_cons _ (exec_wrBufData32_inside s v hidle hin), execAll_cons _ hback, execAll_cons _ hread, execAll_nil]

theorem crcExposed_crcExposed (v : Word) : crcExposed (crcExposed v) = v := by
  rw [crcExposed_eq_not, crcExposed_eq_not, BitVec.not_not]

/-- Settles O52: exposing a state twice gives it back, so the seed Crc32(d) is the state after `d`. -/
theorem crcValueSeedsResume : Obligations.CrcValueSeedsResume := by
  refine ⟨fun s hidle => ⟨_, exec_read_idle (exec_rdCrcValue s) hidle, ?_⟩, fun s d e hidle =>
    ⟨_, exec_write_idle (exec_wrCrcValue _ s) hidle, ?_⟩⟩
  · have hrestore := exec_write_idle
      (exec_wrCrcValue (crcExposed s.crcState) { s.returns (crcExposed s.crcState) with crcState := 0#32 }) hidle
    rw [crcExposed_crcExposed] at hrestore
    exact hrestore
  · rw [crc32, crcExposed_crcExposed, ← crcUpdate_append, ← crcExposed_eq_not]
    rfl

end Sys2Proof.Machine

/-! PROOFS of the family 41_rolling: the byte update (O20), seeds (O21), feeding part by part (O22) and ADLER_BUF in range
(O23). The two halves of a packed value are its remainder and its quotient by 65536; both sums are remainders by 65521, so
each fits its half and packing loses nothing. -/

namespace Sys2Proof.Machine

/-! ### Packed values (41_rolling.md R161) -/

theorem adlerLow_eq_mod (v : Word) : adlerLow v = v.toNat % 65536 := by
  rw [adlerLow, BitVec.toNat_and]
  exact Nat.and_two_pow_sub_one_eq_mod v.toNat 16

theorem adlerHigh_eq_div (v : Word) : adlerHigh v = v.toNat / 65536 := by
  have hhalf : v.toNat / 65536 < 65536 := Nat.div_lt_of_lt_mul v.isLt
  change adlerLow (v >>> 16) = _
  rw [adlerLow_eq_mod, BitVec.toNat_ushiftRight, Nat.shiftRight_eq_div_pow, Nat.mod_eq_of_lt hhalf]

/-- Two sums that fit their halves are packed side by side. -/
theorem toNat_pack_halves {high low : Nat} (hhigh : high < 65536) (hlow : low < 65536) :
    (BitVec.ofNat 32 high <<< 16 ||| BitVec.ofNat 32 low).toNat = 65536 * high + low := by
  have hshift : (BitVec.ofNat 32 high <<< 16).toNat = high <<< 16 := by
    rw [BitVec.toNat_shiftLeft, BitVec.toNat_ofNat, Nat.shiftLeft_eq, Nat.shiftLeft_eq]
    omega
  rw [BitVec.toNat_or, hshift, BitVec.toNat_ofNat, Nat.mod_eq_of_lt (a := low) (by omega),
    ← Nat.shiftLeft_add_eq_or_of_lt (i := 16) hlow, Nat.shiftLeft_eq]
  omega

/-! ### The byte update and seeds (41_rolling.md R162, R174) -/

/-- Settles O20: each sum is below 65521 and so comes back from its half. -/
theorem adlerByteFollowsRecurrence : Obligations.AdlerByteFollowsRecurrence := by
  intro v x
  have hlow : (v.toNat % 65536 + x.toNat) % 65521 < 65521 := Nat.mod_lt _ (by decide)
  have hhigh : (v.toNat / 65536 + (v.toNat % 65536 + x.toNat) % 65521) % 65521 < 65521 := Nat.mod_lt _ (by decide)
  simp only [adlerByte, adlerMod, adlerLow_eq_mod, adlerHigh_eq_div]
  rw [toNat_pack_halves (by omega) (by omega)]
  omega

/-- After a byte both halves are reduced, whatever they were. -/
theorem adlerByte_reduced (v : Word) (x : Byte) :
    (adlerByte v x).toNat % 65536 < 65521 ∧ (adlerByte v x).toNat / 65536 < 65521 := by
  obtain ⟨hlow, hhigh⟩ := adlerByteFollowsRecurrence v x
  rw [hlow, hhigh]
  exact ⟨Nat.mod_lt _ (by decide), Nat.mod_lt _ (by decide)⟩

theorem adlerUpdate_reduced (v : Word) {d : List Byte} (hd : d ≠ []) :
    (adlerUpdate v d).toNat % 65536 < 65521 ∧ (adlerUpdate v d).toNat / 65536 < 65521 := by
  obtain rfl | ⟨e, x, rfl⟩ := d.eq_nil_or_concat'
  · exact absurd rfl hd
  · rw [adlerUpdate_append]
    exact adlerByte_reduced (adlerUpdate v e) x

/-- Settles O21: the write stores the word; the last byte fed reduces both halves. -/
theorem adlerSeedsUnreducedUntilFed : Obligations.AdlerSeedsUnreducedUntilFed :=
  ⟨fun s v hidle => exec_write_idle (exec_wrAdlerValue v s) hidle, adlerUpdate_nil,
    fun v _ hd => adlerUpdate_reduced v hd, by decide, by decide⟩

/-! ### Feeding the rolling checksum (41_rolling.md R166, R175) -/

/-- Settles O23: the bytes are those of the body's one read. -/
theorem adlerBufCompletes : Obligations.AdlerBufCompletes := fun s hin =>
  ⟨s.memRead s.argAddr s.argLen, s.draws + 1, length_memRead s _ _, admits_memRead s _ _,
    exec_of_done (i := .adlerBuf) rfl (adlerBufBody_inside false s hin),
    exec_of_done (i := .adlerBufI) rfl (adlerBufBody_inside true s hin)⟩

/-- ADLER_BUF over written bytes feeds them, whatever ARG0, ARG1 and the last command were. -/
theorem execAll_adlerBuf_fed (s : State) (a : Word) (d : List Byte) (hidle : s.status.busy = false)
    (hin : a.toNat + d.length ≤ s.bufBytes) (hheld : s.mem.holds a.toNat d = true) :
    ∃ t, execAll (Feed.buf a d).toAdler s = .next t ∧ Fed State.adlerValue State.crcState adlerByte s d t := by
  let u := startCommand { s with arg0 := a, arg1 := BitVec.ofNat 32 d.length } 0x00000009#32
  have hlen : u.argLen = d.length := toNat_ofNat_of_fits hin
  have hread : u.memRead u.argAddr u.argLen = d := memRead_of_holds u _ _ d hlen.symm hheld
  have hcomplete := exec_of_done (i := .adlerBuf) rfl (adlerBufBody_inside false u (hlen ▸ hin))
  rw [hread] at hcomplete
  exact ⟨_, (execAll_start _ s a _ _ hidle).trans (execAll_cons [] hcomplete), rfl, rfl, rfl, rfl, rfl, rfl⟩

theorem feed_toAdler_fed (f : Feed) (s : State) (hidle : s.status.busy = false) (hready : f.ready s = true) :
    ∃ t, execAll f.toAdler s = .next t ∧ Fed State.adlerValue State.crcState adlerByte s f.bytes t := by
  cases f with
  | buf a d =>
    obtain ⟨hin, hheld⟩ := Bool.and_eq_true_iff.1 hready
    exact execAll_adlerBuf_fed s a d hidle (of_decide_eq_true hin) hheld
  | data8 v =>
    exact ⟨_, execAll_cons [] (exec_write_idle (exec_wrAdlerData8 v s) hidle), rfl, rfl, rfl, rfl, rfl, hidle⟩
  | data32 v =>
    exact ⟨_, execAll_cons [] (exec_write_idle (exec_wrAdlerData32 v s) hidle), rfl, rfl, rfl, rfl, rfl, hidle⟩

/-- Settles O22: each part is fed from wherever the parts before it left the engine. -/
theorem adlerFeedsInAnyChunking : Obligations.AdlerFeedsInAnyChunking := by
  intro s parts hidle hready
  obtain ⟨t, ht, hfed⟩ := execAll_feeds feed_toAdler_fed parts s hidle hready
  exact ⟨t, ht, hfed.fed, hfed.mem, hfed.other, hfed.res, hfed.idle⟩

end Sys2Proof.Machine

/-! PROOFS of the family 42_framing: the signature commands (O24, O25), CHUNK_BUILD (O26), CHUNK_CHECK (O27 to O30) and
the walks (O29 to O35, O37). A frame command succeeds or fails as its one procedure does, so each statement about
CHUNK_CHECK is one about CheckRecord, and each about CHUNK_FIND and CONTAINER_FIND one about Walk, from the record that it
has reached. -/

namespace Sys2Proof.Machine

/-! ### How a frame command ends -/

/-- `i` takes `s` to a state with result registers `r` and STATUS `t`, nothing else changed but the draws. -/
def EndsWith (i : Instr) (s : State) (r : Results) (t : Status) : Prop :=
  ∃ n, exec i s = .next { s with res := r, status := t, draws := n }

/-- `i` fails in `s` with `e`, ERR_INFO `info` and result registers `r`, nothing else changed but the draws. -/
def FailsWith (i : Instr) (s : State) (e : ErrorCode) (info : Word) (r : Results) : Prop :=
  ∃ n, exec i s = .next { s with res := r, status := s.status.failed e, errInfo := info, draws := n }

theorem exec_of_body {i : Instr} {s : State} {run : Run Unit} (hi : isCommand i = true) (hbody : bodyOf i s = run) :
    exec i s = .next run.finish := hbody ▸ exec_command i s hi

theorem endsWith_of_done {i : Instr} {s : State} {run : Run Unit} {r : Results} {t : Status}
    (hexec : exec i s = .next run.finish)
    (hrun : ∃ n, run = .done () { s with res := r, draws := n, status := t }) : EndsWith i s r t.succeeded := by
  obtain ⟨n, rfl⟩ := hrun
  exact ⟨n, hexec⟩

theorem failsWith_of_raised {i : Instr} {s : State} {run : Run Unit} {e : ErrorCode} {info : Word} {r : Results}
    (hexec : exec i s = .next run.finish)
    (hrun : ∃ n, run = .raised e info { s with res := r, draws := n }) : FailsWith i s e info r := by
  obtain ⟨n, rfl⟩ := hrun
  exact ⟨n, hexec⟩

/-! ### The signature commands (42_framing.md R199, R200) -/

theorem sigWriteBody_inside (s : State) (h : s.argAddr + 8 ≤ s.bufBytes) :
    sigWriteBody s = .done () (s.memWrite s.argAddr signature) := if_pos ((inRange_iff _ _ _).2 h)

theorem sigCheckBody_inside (s : State) (h : s.argAddr + 8 ≤ s.bufBytes) :
    sigCheckBody s = if s.memRead s.argAddr 8 = signature then .done () s.nextDraw
      else .raised .invalidSignature s.arg0 s.nextDraw := if_pos ((inRange_iff _ _ _).2 h)

/-- Settles O24: the body's one write. -/
theorem sigWriteCompletes : Obligations.SigWriteCompletes := fun s hin =>
  ⟨s.mem.write s.argAddr signature, exec_of_done (i := .sigWrite) rfl (sigWriteBody_inside s hin),
    Memory.stored_write s.mem s.argAddr signature⟩

/-- Settles O25: the eight bytes are those of the body's one read. -/
theorem sigCheckCompletes : Obligations.SigCheckCompletes := fun s hin =>
  ⟨s.memRead s.argAddr 8, s.draws + 1, length_memRead s _ _, admits_memRead s _ _,
    fun heq => exec_of_done (i := .sigCheck) rfl ((sigCheckBody_inside s hin).trans (if_pos heq)),
    fun hne => exec_of_raised (i := .sigCheck) rfl ((sigCheckBody_inside s hin).trans (if_neg hne))⟩

/-! ### What is read and held around a write -/

theorem memRead_append (s : State) (a m n : Nat) : s.memRead a (m + n) = s.memRead a m ++ s.memRead (a + m) n := by
  simp only [State.memRead, ← List.map_append, List.range'_append_1]

theorem peek_memWrite_of_outside (s : State) (a b : Nat) (bs : List Byte) (h : b < a ∨ a + bs.length ≤ b) :
    (s.memWrite a bs).peek b = s.peek b := by
  simp only [State.peek, memWrite_mem, memWrite_draws, Memory.lookup_write]
  rw [if_neg (by omega)]

theorem memRead_memWrite_of_disjoint (s : State) (a b n : Nat) (bs : List Byte)
    (h : b + n ≤ a ∨ a + bs.length ≤ b) : (s.memWrite a bs).memRead b n = s.memRead b n := by
  simp only [State.memRead, List.map_inj_left, List.mem_range'_1]
  intro x hx
  exact peek_memWrite_of_outside s a x bs (by omega)

theorem memRead_memWrite_same (s : State) (a : Nat) (bs : List Byte) :
    (s.memWrite a bs).memRead a bs.length = bs :=
  memRead_of_holds _ _ _ _ rfl (Memory.holds_write s.mem a bs)

/-- Stored bytes are held. -/
theorem Memory.Stored.holds {m m' : Memory} {a : Nat} {bs : List Byte} (h : m.Stored a bs m') :
    m'.holds a bs = true := by
  refine (Memory.holds_iff _ _ _).2 fun i x hi => ?_
  have hlt := (List.getElem?_eq_some_iff.1 hi).1
  rw [h, if_pos (by omega), Nat.add_sub_cancel_left, hi]

theorem Memory.holds_getElem? {m : Memory} {a : Nat} {bs : List Byte} (h : m.holds a bs = true) {i : Nat}
    (hi : i < bs.length) : m.lookup (a + i) = bs[i]? := by
  rw [List.getElem?_eq_getElem hi]
  exact (Memory.holds_iff m a bs).1 h i bs[i] (List.getElem?_eq_getElem hi)

/-- Bytes stored before and behind held bytes: the whole is then stored, as if all of it had been written. -/
theorem Memory.Stored.around_held {m h m' : Memory} {a : Nat} {xs ds ys : List Byte} (hxs : m.Stored a xs h)
    (hds : m.holds (a + xs.length) ds = true) (hys : h.Stored (a + xs.length + ds.length) ys m') :
    m.Stored a (xs ++ (ds ++ ys)) m' := by
  intro x
  rw [hys, hxs, List.length_append, List.length_append]
  by_cases hin : a ≤ x ∧ x < a + (xs.length + (ds.length + ys.length))
  · obtain ⟨i, rfl⟩ := Nat.exists_eq_add_of_le hin.1
    rw [if_pos hin, Nat.add_sub_cancel_left]
    rcases Nat.lt_or_ge i xs.length with hi | hi
    · rw [if_neg (by omega), if_pos (by omega), List.getElem?_append_left hi]
    · obtain ⟨j, rfl⟩ := Nat.exists_eq_add_of_le hi
      rw [if_neg (c := a ≤ a + (xs.length + j) ∧ _) (by omega), List.getElem?_append_right hi, Nat.add_sub_cancel_left]
      rcases Nat.lt_or_ge j ds.length with hj | hj
      · rw [if_neg (by omega), List.getElem?_append_left hj, ← Nat.add_assoc, Memory.holds_getElem? hds hj]
      · rw [if_pos (by omega), List.getElem?_append_right hj]
        congr 1
        omega
  · rw [if_neg (by omega), if_neg (by omega), if_neg hin]

/-! ### CHUNK_BUILD (42_framing.md R201) -/

/-- CHUNK_BUILD in range: header and CRC are written, around the data as its one read returns them. -/
theorem exec_chunkBuild_inside (s : State) (hlen : s.arg1.toNat ≤ 0x7FFFFFFF)
    (hin : s.argAddr + 12 + s.arg1.toNat ≤ s.bufBytes) :
    let r : Rec := ⟨s.arg2, s.memRead (s.argAddr + 8) s.arg1.toNat⟩
    exec .chunkBuild s = .next { s with
      mem := (s.mem.write s.argAddr (bytesBE s.arg1 ++ bytesBE s.arg2)).write (s.argAddr + 8 + s.arg1.toNat)
        (bytesBE r.crc)
      res := r.results s.argAddr 1, status := s.status.succeeded, draws := s.draws + 1 } := by
  intro r
  obtain ⟨c, hc, hbody⟩ := chunkBuild_eq s hlen hin
  have htag : ((s.putBE32 s.argAddr s.arg1).putBE32 (s.argAddr + 4) s.arg2).memRead (s.argAddr + 4) 4
      = bytesBE s.arg2 := memRead_memWrite_same _ _ (bytesBE s.arg2)
  have hdata : ((s.putBE32 s.argAddr s.arg1).putBE32 (s.argAddr + 4) s.arg2).memRead (s.argAddr + 8) s.arg1.toNat
      = s.memRead (s.argAddr + 8) s.arg1.toNat :=
    (memRead_memWrite_of_disjoint _ _ _ _ (bytesBE s.arg2) (.inr le_rfl)).trans
      (memRead_memWrite_of_disjoint s _ _ _ (bytesBE s.arg1) (.inr (by simp)))
  have hcrc : c = r.crc := by
    rw [hc, show s.argLen = s.arg1.toNat from rfl, memRead_append, htag, hdata]
    rfl
  have hwrite := Memory.write_write s.mem s.argAddr (bytesBE s.arg1) (bytesBE s.arg2)
  rw [length_bytesBE] at hwrite
  rw [exec_of_done (i := .chunkBuild) rfl hbody, hcrc, hwrite]
  simp only [Rec.results, r, length_memRead]
  rfl

/-- Over written data the buffer then holds the whole record. -/
theorem exec_chunkBuild_of_holds (s : State) (data : List Byte) (hdata : s.arg1.toNat = data.length)
    (hlen : data.length ≤ 0x7FFFFFFF) (hin : s.argAddr + 12 + data.length ≤ s.bufBytes)
    (hheld : s.mem.holds (s.argAddr + 8) data = true) :
    ∃ m n, exec .chunkBuild s = .next { s with
        mem := m, res := (Rec.mk s.arg2 data).results s.argAddr 1, status := s.status.succeeded, draws := n }
      ∧ s.mem.Stored s.argAddr (Rec.mk s.arg2 data).bytes m := by
  have hread : s.memRead (s.argAddr + 8) data.length = data := memRead_of_holds s _ _ data rfl hheld
  have hexec := exec_chunkBuild_inside s (hdata ▸ hlen) (hdata ▸ hin)
  rw [hdata, hread] at hexec
  refine ⟨_, _, hexec, ?_⟩
  have hfield : BitVec.ofNat 32 data.length = s.arg1 := by rw [← hdata, BitVec.ofNat_toNat, BitVec.setWidth_eq]
  rw [Rec.bytes, hfield, ← List.append_assoc]
  exact (Memory.stored_write s.mem s.argAddr _).around_held hheld (Memory.stored_write _ _ _)

/-- Settles O26: over any data the bytes are those of the body's one read of them. -/
theorem chunkBuildFramesRecord : Obligations.ChunkBuildFramesRecord :=
  ⟨exec_chunkBuild_of_holds, fun s hlen hin =>
    ⟨s.memRead (s.argAddr + 8) s.arg1.toNat, _, _, _, length_memRead s _ _, admits_memRead s _ _,
      exec_chunkBuild_inside s hlen hin, Memory.stored_write _ _ _, Memory.stored_write _ _ _⟩⟩

/-! ### CHUNK_CHECK (42_framing.md R202): it ends as CheckRecord does -/

theorem chunkCheckBody_inside {s : State} (hin : s.arg0.toNat + s.arg1.toNat ≤ s.bufBytes) :
    chunkCheckBody s = (checkRecord s.arg0.toNat (s.arg0.toNat + s.arg1.toNat)
      (clearResults s)).andThen fun _ t => .done () t := if_pos ((inRange_iff (clearResults s) _ _).2 hin)

theorem exec_chunkCheck_inside {s : State} (hin : s.arg0.toNat + s.arg1.toNat ≤ s.bufBytes) :
    exec .chunkCheck s = .next ((checkRecord s.arg0.toNat (s.arg0.toNat + s.arg1.toNat)
      (clearResults s)).andThen fun _ t => .done () t).finish :=
  exec_of_body rfl (chunkCheckBody_inside hin)

theorem chunkCheck_endsWith {s : State} {hit : Nat × Word} {r : Results}
    (hin : s.arg0.toNat + s.arg1.toNat ≤ s.bufBytes)
    (hcheck : ∃ n, checkRecord s.arg0.toNat (s.arg0.toNat + s.arg1.toNat) (clearResults s) =
      .done hit { s with res := r, draws := n }) : EndsWith .chunkCheck s r s.status.succeeded := by
  obtain ⟨n, hcheck⟩ := hcheck
  exact endsWith_of_done (exec_chunkCheck_inside hin) ⟨n, by rw [hcheck, andThen_done]⟩

theorem chunkCheck_failsWith {s : State} {e : ErrorCode} {r : Results}
    (hin : s.arg0.toNat + s.arg1.toNat ≤ s.bufBytes)
    (hcheck : ∃ n, checkRecord s.arg0.toNat (s.arg0.toNat + s.arg1.toNat) (clearResults s) =
      .raised e (BitVec.ofNat 32 s.arg0.toNat) { s with res := r, draws := n }) :
    FailsWith .chunkCheck s e s.arg0 r := by
  obtain ⟨n, hcheck⟩ := hcheck
  rw [BitVec.ofNat_toNat, BitVec.setWidth_eq] at hcheck
  exact failsWith_of_raised (exec_chunkCheck_inside hin) ⟨n, by rw [hcheck, andThen_raised]⟩

/-- A held record is accepted. -/
theorem chunkCheck_accepts {s : State} {r : Rec} (hlegal : r.data.length ≤ 0x7FFFFFFF)
    (hfit : r.size ≤ s.arg1.toNat) (hin : s.arg0.toNat + s.arg1.toNat ≤ s.bufBytes)
    (hheld : s.mem.holds s.arg0.toNat r.bytes = true) :
    EndsWith .chunkCheck s (r.results s.arg0.toNat 1) s.status.succeeded := by
  obtain ⟨n, hcheck⟩ := checkRecord_of_held _ _ (clearResults s) r r.crc hlegal
    (Nat.add_le_add_left hfit s.arg0.toNat) hheld
  exact chunkCheck_endsWith hin ⟨n, hcheck.trans (if_pos rfl)⟩

/-- Settles O27: over any bytes, by the reads of CheckRecord. -/
theorem chunkCheckAcceptsRecord : Obligations.ChunkCheckAcceptsRecord := by
  refine ⟨fun s r hlegal hfit hin hheld => chunkCheck_accepts (of_decide_eq_true hlegal) hfit hin hheld,
    fun s hin hroom => ?_⟩
  obtain ⟨q, hq, hbad, hlong, hcrc, hpass⟩ := checkRecord_reads (clearResults s)
    (Nat.add_le_add_left hroom s.arg0.toNat)
  refine ⟨q, hq, fun hbig => ?_, fun hlen hsize => ?_, fun hlen hsize hne => ?_, fun hlen hsize heq => ?_⟩
  · exact chunkCheck_failsWith hin ⟨_, hbad hbig⟩
  · exact chunkCheck_failsWith hin ⟨_, hlong hlen (Nat.add_lt_add_left hsize _)⟩
  · exact chunkCheck_failsWith hin ⟨_, hcrc hlen (Nat.add_le_add_left hsize _) hne⟩
  · exact chunkCheck_endsWith hin ⟨_, hpass ⟨hlen, Nat.add_le_add_left hsize _, heq⟩⟩

/-- Settles O28: what is stored is held, and the built record fits its own length exactly. -/
theorem builtRecordChecks : Obligations.BuiltRecordChecks := by
  intro s data hdata hlen hin hheld
  obtain ⟨m, n, hbuild, hstored⟩ := exec_chunkBuild_of_holds s data hdata hlen hin hheld
  let r : Rec := ⟨s.arg2, data⟩
  let t : State := { s with mem := m, res := r.results s.argAddr 1, status := s.status.succeeded, draws := n }
  let u : State := { t with arg1 := BitVec.ofNat 32 (12 + data.length) }
  have hwrite : exec (.wrArg1 (BitVec.ofNat 32 (12 + data.length))) t = .next u :=
    exec_write_idle (exec_wrArg1 _ t) rfl
  rw [Nat.add_assoc] at hin
  have hlen' : u.arg1.toNat = r.size := toNat_ofNat_of_fits hin
  obtain ⟨k, hcheck⟩ := chunkCheck_accepts (s := u) (r := r) hlen hlen'.ge (by rw [hlen']; exact hin) hstored.holds
  rw [execAll_cons _ hbuild, execAll_cons _ hwrite, execAll_cons _ hcheck]
  exact ⟨_, rfl, rfl, rfl⟩

/-! ### A walk at its end, at a record that fails, and at a match (42_framing.md R197) -/

section
variable {fuel p stop : Nat} {target : Word} {s t : State}

theorem walk_at_end (fuel stop : Nat) (target : Word) (s : State) :
    walk fuel stop stop target s = .done () (s.setFound false) := by
  cases fuel with
  | zero => rfl
  | succ fuel => rw [walk, if_neg (Nat.lt_irrefl stop)]

theorem walk_of_raised {e : ErrorCode} {info : Word} (hlt : p < stop)
    (hcheck : checkRecord p stop s = .raised e info t) :
    walk (fuel + 1) p stop target s = .raised e info t := by
  rw [walk, if_pos hlt, hcheck, andThen_raised]

theorem walk_of_match {hit : Nat × Word} (hlt : p < stop) (hcheck : checkRecord p stop s = .done hit t)
    (hmatch : hit.2 = target) : walk (fuel + 1) p stop target s = .done () (t.setFound true) := by
  rw [walk, if_pos hlt, hcheck, andThen_done, if_pos hmatch]

end

theorem lastResults_count (p : Nat) (rs : List Rec) : (lastResults p rs).count = BitVec.ofNat 32 rs.length := by
  obtain rfl | ⟨init, r, rfl⟩ := rs.eq_nil_or_concat'
  · rfl
  · rw [lastResults, List.getLast?_concat]
    rfl

theorem recordSize_append_single (rs : List Rec) (r : Rec) : recordSize (rs ++ [r]) = recordSize rs + r.size := by
  simp [recordSize]

theorem recordBytes_append_single (rs : List Rec) (r : Rec) :
    recordBytes (rs ++ [r]) = recordBytes rs ++ r.bytes := by
  simp [recordBytes]

/-! ### A walk command at the record it has reached (42_framing.md R203, R205) -/

/-- The state in which `i`, having passed the records `before`, comes to the next one, `k` free values taken. -/
def State.walked (s : State) (i : Instr) (before : List Rec) (k : Nat) : State :=
  { s with res := lastResults (s.arg0.toNat + (walkPrefix i).length) before, draws := k }

section
variable {s : State} {i : Instr} {before : List Rec} {p : Nat}

/-- It fails as CheckRecord fails there. -/
theorem State.WalkReaches.failsWith (h : s.WalkReaches i before p) {e : ErrorCode} {r : Results}
    (hcheck : ∀ k, ∃ n, checkRecord p (s.arg0.toNat + s.arg1.toNat) (s.walked i before k) =
      .raised e (BitVec.ofNat 32 p) { s with res := r, draws := n }) :
    FailsWith i s e (BitVec.ofNat 32 p) r := by
  obtain ⟨fuel, k, hexec⟩ := exec_walk h
  obtain ⟨n, hraised⟩ := hcheck k
  exact failsWith_of_raised hexec ⟨n, walk_of_raised h.left hraised⟩

/-- It finds a legal record that is held there and has the target tag. -/
theorem State.WalkReaches.finds (h : s.WalkReaches i before p) {r : Rec} (hlegal : r.legal = true)
    (htag : r.tag = s.arg2) (hfit : p + r.size ≤ s.arg0.toNat + s.arg1.toNat)
    (hheld : s.mem.holds p r.bytes = true) :
    EndsWith i s (r.results p (before.length + 1)) { s.status.succeeded with found := true } := by
  obtain ⟨fuel, k, hexec⟩ := exec_walk h
  obtain ⟨n, hcheck⟩ := checkRecord_of_held p _ (s.walked i before k) r r.crc (of_decide_eq_true hlegal)
    hfit hheld
  rw [if_pos rfl, State.walked, lastResults_count, ← BitVec.ofNat_add] at hcheck
  exact endsWith_of_done hexec ⟨n, walk_of_match h.left hcheck htag⟩

end

/-- Settles O29: CheckRecord tests length and size before it reads anything else. -/
theorem chunkCheckHeaderErrors : Obligations.ChunkCheckHeaderErrors := by
  refine ⟨fun s b3 b2 b1 b0 hin => ⟨fun hshort => ?_, fun hroom hheld hbig => ?_, fun hroom hheld hlen hlong => ?_⟩,
    fun s i before p b3 b2 b1 b0 h => ⟨fun hshort => ?_, fun hroom hheld hbig => ?_, fun hroom hheld hlen hlong => ?_⟩⟩
  · rw [exec_chunkCheck_inside hin, checkRecord_short _ (Nat.add_lt_add_left hshort _), BitVec.ofNat_toNat,
      BitVec.setWidth_eq]
    rfl
  · exact chunkCheck_failsWith hin
      ⟨_, (checkRecord_of_length (clearResults s) b3 b2 b1 b0 (by omega) hheld).1 hbig⟩
  · exact chunkCheck_failsWith hin
      ⟨_, (checkRecord_of_length (clearResults s) b3 b2 b1 b0 (by omega) hheld).2 hlen (by omega)⟩
  · exact h.failsWith fun k => ⟨k, checkRecord_short _ hshort⟩
  · exact h.failsWith fun k => ⟨_, (checkRecord_of_length (s.walked i before k) b3 b2 b1 b0 hroom hheld).1 hbig⟩
  · exact h.failsWith fun k => ⟨_, (checkRecord_of_length (s.walked i before k) b3 b2 b1 b0 hroom hheld).2 hlen hlong⟩

/-- Settles O30: CheckRecord compares the CRC before anything looks at the tag. -/
theorem chunkCheckRejectsBadCrc : Obligations.ChunkCheckRejectsBadCrc := by
  refine ⟨fun s r c hlegal hfit hin hne hheld => ?_, fun s i before p r c h hlegal hfit hne hheld => ?_⟩
  · obtain ⟨n, hcheck⟩ := checkRecord_of_held _ _ (clearResults s) r c (of_decide_eq_true hlegal)
      (Nat.add_le_add_left hfit s.arg0.toNat) hheld
    exact chunkCheck_failsWith hin ⟨n, hcheck.trans (if_neg hne)⟩
  · refine h.failsWith fun k => ?_
    obtain ⟨n, hcheck⟩ := checkRecord_of_held p _ (s.walked i before k) r c (of_decide_eq_true hlegal)
      hfit hheld
    rw [if_neg hne, State.walked, lastResults_count] at hcheck
    exact ⟨n, hcheck⟩

/-- A walk command over a region that begins with its leading bytes, legal records without the target tag, and one with
it. -/
theorem walk_finds {s : State} {i : Instr} {before : List Rec} {r : Rec} (hi : i = .chunkFind ∨ i = .containerFind)
    (hmiss : ∀ q ∈ before, q.legal = true ∧ q.tag ≠ s.arg2) (hlegal : r.legal = true) (htag : r.tag = s.arg2)
    (hin : s.arg0.toNat + s.arg1.toNat ≤ s.bufBytes)
    (hfit : (walkPrefix i).length + recordSize (before ++ [r]) ≤ s.arg1.toNat)
    (hheld : s.mem.holds s.arg0.toNat (walkPrefix i ++ recordBytes (before ++ [r])) = true) :
    EndsWith i s (r.results (s.arg0.toNat + (walkPrefix i).length + recordSize before) (before.length + 1))
      { s.status.succeeded with found := true } := by
  rw [recordSize_append_single] at hfit
  rw [recordBytes_append_single, ← List.append_assoc, Memory.holds_append, Bool.and_eq_true] at hheld
  obtain ⟨hbefore, hrecord⟩ := hheld
  rw [List.length_append, length_recordBytes, ← Nat.add_assoc] at hrecord
  have hsize : 12 ≤ r.size := Nat.le_add_right 12 _
  have hreaches : s.WalkReaches i before (s.arg0.toNat + (walkPrefix i).length + recordSize before) :=
    ⟨hi, hmiss, hin, hbefore, rfl, by omega⟩
  exact hreaches.finds hlegal htag (by omega) hrecord

/-- Settles O31: the bytes before the records are the signature. -/
theorem containerFindFindsFirstMatch : Obligations.ContainerFindFindsFirstMatch :=
  fun _ _ _ hmiss hlegal htag hin hfit hheld => walk_finds (.inr rfl) hmiss hlegal htag hin hfit hheld

/-- Settles O33: no bytes come before the records. -/
theorem chunkFindFindsFirstMatch : Obligations.ChunkFindFindsFirstMatch :=
  fun _ _ _ hmiss hlegal htag hin hfit hheld =>
    walk_finds (.inl rfl) hmiss hlegal htag hin ((Nat.zero_add _).trans_le hfit) hheld

/-! ### A walk command from its first record -/

theorem chunkFindBody_inside {s : State} (hin : s.arg0.toNat + s.arg1.toNat ≤ s.bufBytes) :
    chunkFindBody s = walk s.arg1.toNat s.arg0.toNat (s.arg0.toNat + s.arg1.toNat) s.arg2 (clearResults s) :=
  if_pos ((inRange_iff (clearResults s) _ _).2 hin)

theorem containerFindBody_short {s : State} (hin : s.arg0.toNat + s.arg1.toNat ≤ s.bufBytes)
    (hshort : s.arg1.toNat < 8) : containerFindBody s = .raised .invalidSignature s.arg0 (clearResults s) :=
  (if_pos ((inRange_iff (clearResults s) _ _).2 hin)).trans (if_pos hshort)

theorem containerFindBody_inside {s : State} (hin : s.arg0.toNat + s.arg1.toNat ≤ s.bufBytes)
    (hlen : 8 ≤ s.arg1.toNat) :
    containerFindBody s = if s.memRead s.arg0.toNat 8 = signature then
        walk (s.arg1.toNat - 8) (s.arg0.toNat + 8) (s.arg0.toNat + s.arg1.toNat) s.arg2 (clearResults s).nextDraw
      else .raised .invalidSignature s.arg0 (clearResults s).nextDraw :=
  (if_pos ((inRange_iff (clearResults s) _ _).2 hin)).trans (if_neg (Nat.not_lt.2 hlen))

/-- The walk that `i` makes over its region, `k` free values taken before it. -/
def State.walkRegion (s : State) (i : Instr) (k : Nat) : Run Unit :=
  walk (s.arg1.toNat - (walkPrefix i).length) (s.arg0.toNat + (walkPrefix i).length) (s.arg0.toNat + s.arg1.toNat)
    s.arg2 (s.walked i [] k)

/-- In range, with room for its leading bytes, a walk command compares them as it reads them and then walks. -/
theorem exec_walkRegion {s : State} {i : Instr} (hi : i = .chunkFind ∨ i = .containerFind)
    (hin : s.arg0.toNat + s.arg1.toNat ≤ s.bufBytes) (hlen : (walkPrefix i).length ≤ s.arg1.toNat) :
    (s.memRead s.arg0.toNat (walkPrefix i).length ≠ walkPrefix i → FailsWith i s .invalidSignature s.arg0 {})
    ∧ (s.memRead s.arg0.toNat (walkPrefix i).length = walkPrefix i →
      ∃ k, exec i s = .next (s.walkRegion i k).finish) := by
  obtain rfl | rfl := hi
  · exact ⟨fun hne => absurd rfl hne, fun _ => ⟨s.draws, exec_of_body rfl (chunkFindBody_inside hin)⟩⟩
  · have hbody := containerFindBody_inside hin hlen
    exact ⟨fun hne => ⟨s.draws + 1, exec_of_raised (i := .containerFind) rfl (hbody.trans (if_neg hne))⟩,
      fun heq => ⟨s.draws + 1, exec_of_body (i := .containerFind) rfl (hbody.trans (if_pos heq))⟩⟩

/-- A walk command over a region that is its leading bytes and legal records, none with the target tag. -/
theorem walk_misses {s : State} {i : Instr} {rs : List Rec} (hi : i = .chunkFind ∨ i = .containerFind)
    (hmiss : ∀ q ∈ rs, q.legal = true ∧ q.tag ≠ s.arg2) (hin : s.arg0.toNat + s.arg1.toNat ≤ s.bufBytes)
    (hsize : (walkPrefix i).length + recordSize rs = s.arg1.toNat)
    (hheld : s.mem.holds s.arg0.toNat (walkPrefix i ++ recordBytes rs) = true) :
    EndsWith i s (lastResults (s.arg0.toNat + (walkPrefix i).length) rs)
      { s.status.succeeded with found := false } := by
  rw [Memory.holds_append, Bool.and_eq_true] at hheld
  obtain ⟨hleading, hrecords⟩ := hheld
  obtain ⟨k, hexec⟩ := (exec_walkRegion hi hin (by omega)).2 (memRead_of_holds s _ _ _ rfl hleading)
  have hrounds := length_le_recordSize rs
  obtain ⟨n, hwalk⟩ := walk_past rs (s.arg1.toNat - (walkPrefix i).length) (s.arg0.toNat + (walkPrefix i).length)
    (s.arg0.toNat + s.arg1.toNat) s.arg2 (s.walked i [] k) hmiss (by omega) (by omega) hrecords
  rw [passed_results rs _ (s.walked i [] k) rfl, Nat.add_assoc, hsize, walk_at_end] at hwalk
  exact endsWith_of_done hexec ⟨n, hwalk⟩

/-- Settles O32: the bytes before the records are the signature. -/
theorem containerFindSoftMiss : Obligations.ContainerFindSoftMiss := fun _ _ hmiss hin hsize hheld =>
  walk_misses (.inr rfl) hmiss hin hsize hheld

/-- Settles O34: no bytes come before the records. -/
theorem chunkFindSoftMiss : Obligations.ChunkFindSoftMiss := fun _ _ hmiss hin hsize hheld =>
  walk_misses (.inl rfl) hmiss hin ((Nat.zero_add _).trans hsize) hheld

/-! ### The bound and the outcome of a walk (42_framing.md R215) -/

/-- A walk command fails before its walk, the result registers 0, or walks. -/
theorem exec_walk_command_cases {s : State} {i : Instr} (hi : i = .chunkFind ∨ i = .containerFind) :
    (∃ e, FailsWith i s e s.arg0 {}) ∨ ∃ k, exec i s = .next (s.walkRegion i k).finish := by
  by_cases hin : s.arg0.toNat + s.arg1.toNat ≤ s.bufBytes
  · by_cases hlen : (walkPrefix i).length ≤ s.arg1.toNat
    · obtain ⟨hother, hsame⟩ := exec_walkRegion hi hin hlen
      by_cases hleading : s.memRead s.arg0.toNat (walkPrefix i).length = walkPrefix i
      · exact .inr (hsame hleading)
      · exact .inl ⟨_, hother hleading⟩
    · obtain rfl | rfl := hi
      · exact absurd (Nat.zero_le _) hlen
      · exact .inl ⟨_, _, exec_of_raised_cleared rfl (containerFindBody_short hin (Nat.lt_of_not_le hlen))⟩
  · obtain rfl | rfl := hi
    · exact .inl ⟨_, _, exec_of_raised_cleared rfl (chunkFindBody_outside s (Nat.lt_of_not_le hin))⟩
    · exact .inl ⟨_, _, exec_of_raised_cleared rfl (containerFindBody_outside s (Nat.lt_of_not_le hin))⟩

theorem walkRegion_count_le (s : State) (i : Instr) (k : Nat) :
    (s.walkRegion i k).finish.res.count.toNat ≤ s.arg1.toNat / 12 := by
  have hbound := s.arg1.isLt
  have hzero : (s.walked i [] k).res.count.toNat = 0 := rfl
  obtain ⟨r, n, hwalk, hcount, -⟩ := walk_cases (s.arg1.toNat - (walkPrefix i).length)
    (s.arg0.toNat + (walkPrefix i).length) (s.arg0.toNat + s.arg1.toNat) s.arg2 (s.walked i [] k) (by omega)
  have hle : r.count.toNat ≤ s.arg1.toNat / 12 := by omega
  obtain ⟨b, hdone⟩ | ⟨e, info, hraised, -⟩ := hwalk
  · rw [State.walkRegion, hdone]
    exact hle
  · rw [State.walkRegion, hraised]
    exact hle

theorem walk_command_count_le {s t : State} {i : Instr} (hi : i = .chunkFind ∨ i = .containerFind)
    (h : exec i s = .next t) :
    t.res.count.toNat ≤ s.arg1.toNat / 12 := by
  obtain ⟨e, n, hfails⟩ | ⟨k, hwalks⟩ := exec_walk_command_cases (s := s) hi
  · cases hfails.symm.trans h
    exact Nat.zero_le _
  · cases hwalks.symm.trans h
    exact walkRegion_count_le s i k

/-- Settles O35: the walk starts from cleared result registers, so what it counts are the records it passed. -/
theorem walkBoundAndOutcome : Obligations.WalkBoundAndOutcome := by
  refine ⟨fun s t h => h.elim (walk_command_count_le (.inl rfl)) (walk_command_count_le (.inr rfl)),
    fun s i hi hin hlen => ?_⟩
  intro start stop failing ending
  obtain ⟨hother, hsame⟩ := exec_walkRegion hi hin hlen
  refine ⟨s.memRead s.arg0.toNat (walkPrefix i).length, length_memRead s _ _, admits_memRead s _ _, fun hne => ?_,
    fun heq => ?_⟩
  · simp only [failing, BitVec.ofNat_toNat, BitVec.setWidth_eq]
    exact hother hne
  · obtain ⟨k, hexec⟩ := hsame heq
    obtain ⟨qs, p, hpassed, hp, hend, hshort, hrecord⟩ := walk_reads stop s.arg2 (s.arg1.toNat - (walkPrefix i).length)
      start (s.walked i [] k) (Nat.add_le_add_left hlen _) (by omega)
    have hresults : resultsPast (s.walked i [] k).res start qs = passedResults start qs := resultsPast_zero start qs
    simp only [hresults, passedResults_count, ← BitVec.ofNat_add] at hend hshort hrecord
    refine ⟨qs, p, hpassed, hp, fun h => endsWith_of_done hexec (hend h),
      fun hlt h => failsWith_of_raised hexec (hshort hlt h), fun hroom => ?_⟩
    obtain ⟨q, hq, hbad, hlong, hcrc, hfound⟩ := hrecord hroom
    exact ⟨q, hq, fun h => failsWith_of_raised hexec (hbad h),
      fun h h' => failsWith_of_raised hexec (hlong h h'),
      fun h h' hne => failsWith_of_raised hexec (hcrc h h' hne),
      fun h => ⟨(hfound h).1, endsWith_of_done hexec (hfound h).2⟩⟩

/-- `i` completes in `s`, and the error INVALID_SIGNATURE is not its own. -/
def RaisesNoInvalidSignature (i : Instr) (s : State) : Prop :=
  ∃ t, exec i s = .next t ∧ (t.status.errCode = .invalidSignature → s.status.errCode = .invalidSignature)

theorem FailsWith.raisesNoInvalidSignature {i : Instr} {s : State} {e : ErrorCode} {info : Word} {r : Results}
    (h : FailsWith i s e info r) (he : e ≠ .invalidSignature) : RaisesNoInvalidSignature i s := by
  obtain ⟨n, h⟩ := h
  exact ⟨_, h, fun hcode => absurd hcode he⟩

theorem EndsWith.raisesNoInvalidSignature {i : Instr} {s : State} {r : Results} {b : Bool}
    (h : EndsWith i s r { s.status.succeeded with found := b }) : RaisesNoInvalidSignature i s := by
  obtain ⟨n, h⟩ := h
  exact ⟨_, h, id⟩

/-- Settles O37: behind the signature the walk ends in one of the ways of O35, and none is INVALID_SIGNATURE. -/
theorem containerFindBadSignature : Obligations.ContainerFindBadSignature := by
  intro s hin
  refine ⟨fun hshort => ⟨_, exec_of_raised_cleared rfl (containerFindBody_short hin hshort)⟩, fun hlen => ?_⟩
  obtain ⟨bs, hbs, hadmits, hother, hsame⟩ := walkBoundAndOutcome.2 s .containerFind (.inr rfl) hin hlen
  refine ⟨bs, hbs, hadmits, fun hne => ?_, fun heq => ?_⟩
  · obtain ⟨n, hfails⟩ := hother hne
    rw [BitVec.ofNat_toNat, BitVec.setWidth_eq] at hfails
    exact ⟨n, hfails⟩
  · change RaisesNoInvalidSignature .containerFind s
    obtain ⟨qs, p, -, hp, hend, hshort, hrecord⟩ := hsame heq
    obtain rfl | hlt := Nat.eq_or_lt_of_le hp
    · exact EndsWith.raisesNoInvalidSignature (hend rfl)
    · rcases Nat.lt_or_ge (s.arg0.toNat + s.arg1.toNat) (p + 12) with hroom | hroom
      · exact FailsWith.raisesNoInvalidSignature (hshort hlt hroom) (by decide)
      · obtain ⟨q, -, hbad, hlong, hcrc, hfound⟩ := hrecord hroom
        rcases Nat.lt_or_ge 0x7FFFFFFF q.len.toNat with hlegal | hlegal
        · exact FailsWith.raisesNoInvalidSignature (hbad hlegal) (by decide)
        · rcases Nat.lt_or_ge (s.arg0.toNat + s.arg1.toNat) (p + q.size) with hfit | hfit
          · exact FailsWith.raisesNoInvalidSignature (hlong hlegal hfit) (by decide)
          · by_cases hmatch : crc32 q.body = q.stored
            · exact EndsWith.raisesNoInvalidSignature (hfound ⟨hlegal, hfit, hmatch⟩).2
            · exact FailsWith.raisesNoInvalidSignature (hcrc hlegal hfit hmatch) (by decide)

end Sys2Proof.Machine

/-! PROOFS of the family 43_control: a step runs the decoded instruction (O6), the open registers (O42, O54, O55), the
guarded ones while busy (O56), read-only and reserved registers (O45, O46, O47), the window (O48 to O50) and the start of a
command (O53). Each register operation is one of a few shared operations; what is left is the value of a word by its bits,
and which offsets are reserved. -/

namespace Sys2Proof.Machine

/-! ### A word by its bits -/

theorem getLsbD_eq_decide (v : Word) (i : Nat) : v.getLsbD i = decide (v.toNat / 2 ^ i % 2 = 1) :=
  Nat.testBit_eq_decide_div_mod_eq

theorem toNat_getLsbD (v : Word) (i : Nat) : (v.getLsbD i).toNat = v.toNat / 2 ^ i % 2 :=
  Nat.toNat_testBit v.toNat i

@[simp] theorem toNat_bit (b : Bool) : (bit b).toNat = b.toNat := by
  cases b <;> rfl

/-- A field put in above the bits of a word is added at its place. -/
theorem toNat_or_shiftLeft {v w : Word} {n a : Nat} (hv : v.toNat = a) (hlow : a < 2 ^ n)
    (hfits : 2 ^ n * w.toNat < 2 ^ 32) : (v ||| (w <<< n)).toNat = a + 2 ^ n * w.toNat := by
  have hshift : (w <<< n).toNat = 2 ^ n * w.toNat := by
    rw [BitVec.toNat_shiftLeft, Nat.shiftLeft_eq, Nat.mul_comm, Nat.mod_eq_of_lt hfits]
  rw [BitVec.toNat_or, hv, hshift, Nat.or_comm, ← Nat.two_pow_add_eq_or_of_lt hlow, Nat.add_comm]

theorem toNat_or_bit {v : Word} {n a : Nat} (b : Bool) (hn : n < 32) (hv : v.toNat = a) (hlow : a < 2 ^ n) :
    (v ||| (bit b <<< n)).toNat = a + 2 ^ n * b.toNat := by
  have hfits : 2 ^ n * (bit b).toNat < 2 ^ 32 := calc
    2 ^ n * (bit b).toNat ≤ 2 ^ n * 1 := Nat.mul_le_mul_left _ (by rw [toNat_bit]; exact b.toNat_le)
    _ < 2 ^ 32 := by rw [Nat.mul_one]; exact Nat.pow_lt_pow_right (by decide) hn
  rw [toNat_or_shiftLeft hv hlow hfits, toNat_bit]

/-! ### CTRL and STATUS as words (43_control.md R246, R248) -/

theorem Ctrl.toNat_word (c : Ctrl) : c.word.toNat = c.doneIE.toNat + 2 * c.errIE.toNat + 4 * c.accIE.toNat := by
  have hdone := c.doneIE.toNat_le
  have herr := c.errIE.toNat_le
  have h1 := toNat_or_bit (n := 1) c.errIE (by decide) (toNat_bit c.doneIE) (by omega)
  exact toNat_or_bit (n := 2) c.accIE (by decide) h1 (by omega)

theorem ErrorCode.toNat_code_le (e : ErrorCode) : e.code.toNat ≤ 6 := by
  cases e <;> decide

theorem Status.toNat_word (t : Status) :
    t.word.toNat = t.busy.toNat + 2 * t.done.toNat + 4 * t.err.toNat + 8 * t.found.toNat + 16 * t.accErr.toNat
      + 256 * t.errCode.code.toNat := by
  have hbusy := t.busy.toNat_le
  have hdone := t.done.toNat_le
  have herr := t.err.toNat_le
  have hfound := t.found.toNat_le
  have hacc := t.accErr.toNat_le
  have hcode := t.errCode.toNat_code_le
  have h1 := toNat_or_bit (n := 1) t.done (by decide) (toNat_bit t.busy) (by omega)
  have h2 := toNat_or_bit (n := 2) t.err (by decide) h1 (by omega)
  have h3 := toNat_or_bit (n := 3) t.found (by decide) h2 (by omega)
  have h4 := toNat_or_bit (n := 4) t.accErr (by decide) h3 (by omega)
  exact toNat_or_shiftLeft (n := 8) h4 (by omega) (by omega)

/-- IRQ follows the flags and their enables (10_state.md R49). -/
theorem State.irq_iff (s : State) :
    s.irq = true ↔ (s.status.done = true ∧ s.ctrl.doneIE = true) ∨ (s.status.err = true ∧ s.ctrl.errIE = true)
      ∨ (s.status.accErr = true ∧ s.ctrl.accIE = true) := by
  simp [State.irq, or_assoc]

/-- Settles O42: each is an open read, of a word whose fields do not overlap. -/
theorem openReadsReturnFields : Obligations.OpenReadsReturnFields := by
  intro s
  refine ⟨exec_rdId s, exec_rdBufSize s, ⟨_, exec_rdCtrl s, s.ctrl.toNat_word⟩, ⟨_, exec_rdStatus s, ?_⟩, s.irq_iff⟩
  rw [s.status.toNat_word]
  cases s.status.errCode <;> rfl

/-! ### Writes of CTRL and STATUS (43_control.md R247, R249) -/

theorem srstBit_eq_false {v : Word} (h : v.toNat < 2 ^ 31) : srstBit v = false := Nat.testBit_lt_two_pow h

/-- Settles O54: no soft reset, so the three enables are stored. -/
theorem writeCtrlStoresEnables : Obligations.WriteCtrlStoresEnables := fun s v hv =>
  ⟨Ctrl.ofWord v, exec_wrCtrl_stores (srstBit_eq_false hv) s,
    (toNat_getLsbD v 0).trans (by rw [Nat.pow_zero, Nat.div_one]), toNat_getLsbD v 1, toNat_getLsbD v 2⟩

theorem and_not_decide_eq_ite (b : Bool) (p : Prop) [Decidable p] : (b && !decide p) = if p then false else b := by
  by_cases hp : p
  · simp [hp]
  · simp [hp]

/-- The fields that a write of STATUS may clear, by the bits of the word. -/
theorem Status.w1c_eq (t : Status) (v : Word) :
    t.w1c v = { t with
      done := if v.toNat / 2 % 2 = 1 then false else t.done
      err := if v.toNat / 4 % 2 = 1 then false else t.err
      errCode := if v.toNat / 4 % 2 = 1 then .noError else t.errCode
      accErr := if v.toNat / 16 % 2 = 1 then false else t.accErr } := by
  simp only [Status.w1c, getLsbD_eq_decide, and_not_decide_eq_ite, decide_eq_true_eq, Nat.reducePow]

/-- Settles O55: with no flag left there is none to raise IRQ. -/
theorem writeStatusClears : Obligations.WriteStatusClears := by
  intro s v
  have hwrite := exec_wrStatus v s
  rw [statusWrite, Status.w1c_eq] at hwrite
  refine ⟨_, hwrite, rfl, rfl, rfl, rfl, rfl, rfl, State.irq_iff _, fun hdone herr hacc => ?_⟩
  simp [State.irq, hdone, herr, hacc]

/-! ### Accesses rejected while BUSY = 1 (43_control.md R260, R262) -/

/-- A register operation that is rejected while BUSY = 1 is at one of the offsets up to ERR_INFO. -/
theorem offset_le_of_isRejectedBusy {i : Instr} {off : Nat} (hoff : offsetOf i = some off)
    (hi : isRejectedBusy i = true) : off ≤ 0x068 := by
  have hle : ∀ o ∈ busyOffsets, o ≤ 0x068 := by decide
  simp only [isRejectedBusy, hoff, Option.any_some, List.contains_iff_mem] at hi
  exact hle off hi

/-- A word of a range above ERR_INFO is at no offset that rejects. -/
theorem isRejectedBusy_rangeWord {i : Instr} {base n : Nat} {P : Prop} (hoff : offsetOf i = some (base + n))
    (hbase : 0x068 < base) (hi : isRejectedBusy i = true) : P := by
  have hle := offset_le_of_isRejectedBusy hoff hi
  omega

/-- A rejected access as O56 says it (43_control.md R262). -/
def State.rejected (s : State) (i : Instr) : State :=
  { s with status := { s.status with accErr := true }, readData := if isRead i then 0#32 else s.readData }

theorem exec_guardedRead_rejected {i : Instr} {f : State → State} {s : State} (hbusy : s.status.busy = true)
    (hread : isRead i = true) (hi : exec i s = guardedRead f s) : exec i s = .next (s.rejected i) := by
  rw [hi, guardedRead_busy f s hbusy, State.rejected, hread]
  rfl

theorem exec_guardedWrite_rejected {i : Instr} {f : State → State} {s : State} (hbusy : s.status.busy = true)
    (hread : isRead i = false) (hi : exec i s = guardedWrite f s) : exec i s = .next (s.rejected i) := by
  rw [hi, guardedWrite_busy f s hbusy, State.rejected, hread]
  rfl

/-- Settles O56: an operation at one of the listed offsets is a guarded read or a guarded write; a command has no offset,
and the open registers and the reserved space have others. -/
theorem busyAccessesRejected : Obligations.BusyAccessesRejected := by
  intro s i hbusy hi
  change exec i s = .next (s.rejected i)
  cases i with
  | nop | crcReset | crcBuf | crcBufI | crcStore | crcCheck | adlerReset | adlerBuf | adlerBufI | adlerStore
  | adlerCheck | sigWrite | sigCheck | chunkBuild | chunkCheck | containerFind | chunkFind | illegal
  | rdId | rdCtrl | rdStatus | rdBufSize | wrId | wrCtrl | wrStatus | wrBufSize | rdRsv034 | rdRsv04C | rdRsv06C
  | wrRsv034 | wrRsv04C | wrRsv06C => cases hi
  | rdRsv070 | rdRsv080 | rdRsv100 | rdRsv200 | rdRsv400 | rdRsv800 | wrRsv070 | wrRsv080 | wrRsv100 | wrRsv200
  | wrRsv400 | wrRsv800 => exact isRejectedBusy_rangeWord rfl (by decide) hi
  | rdCmd | rdArg0 | rdArg1 | rdArg2 | rdCrcState | rdCrcValue | rdAdlerValue | rdBufAddr | rdBufData8 | rdBufData32
  | rdResLen | rdResTag | rdResData | rdResNext | rdResCrc | rdResCount | rdErrInfo | rdCrcData8 | rdCrcData32
  | rdAdlerData8 | rdAdlerData32 => exact exec_guardedRead_rejected hbusy rfl (by rfl)
  | wrCmd | wrArg0 | wrArg1 | wrArg2 | wrCrcState | wrCrcValue | wrCrcData8 | wrCrcData32 | wrAdlerValue | wrAdlerData8
  | wrAdlerData32 | wrBufAddr | wrBufData8 | wrBufData32 | wrResLen | wrResTag | wrResData | wrResNext | wrResCrc
  | wrResCount | wrErrInfo => exact exec_guardedWrite_rejected hbusy rfl (by rfl)

/-- A guarded write that stores nothing is ignored while idle and rejected while BUSY = 1. -/
theorem exec_guardedWrite_id {i : Instr} {s : State} (hi : exec i s = guardedWrite id s) :
    (s.status.busy = false → exec i s = .next s)
      ∧ (s.status.busy = true → exec i s = .next { s with status := { s.status with accErr := true } }) :=
  ⟨exec_write_idle hi, fun hbusy => hi.trans (guardedWrite_busy id s hbusy)⟩

/-- Settles O45: ID and BUF_SIZE ignore a write; for the others it is a guarded write that stores nothing. -/
theorem readOnlyWritesIgnored : Obligations.ReadOnlyWritesIgnored := by
  intro s v
  simp only [List.forall_mem_cons]
  exact ⟨⟨⟨rfl, exec_wrId v s⟩, ⟨rfl, exec_wrBufSize v s⟩, nofun⟩,
    ⟨rfl, exec_guardedWrite_id (exec_wrResLen v s)⟩, ⟨rfl, exec_guardedWrite_id (exec_wrResTag v s)⟩,
    ⟨rfl, exec_guardedWrite_id (exec_wrResData v s)⟩, ⟨rfl, exec_guardedWrite_id (exec_wrResNext v s)⟩,
    ⟨rfl, exec_guardedWrite_id (exec_wrResCrc v s)⟩, ⟨rfl, exec_guardedWrite_id (exec_wrResCount v s)⟩,
    ⟨rfl, exec_guardedWrite_id (exec_wrErrInfo v s)⟩, nofun⟩

/-! ### The reserved space (43_control.md R263, 10_state.md R52) -/

/-- Settles O47: each read is an open read of 0, each write is ignored. -/
theorem reservedRowsComplete : Obligations.ReservedRowsComplete := by
  intro s v k2 k5 k6 k7 k8 k9
  simp only [List.forall_mem_cons]
  exact ⟨⟨exec_rdRsv034 s, exec_rdRsv04C s, exec_rdRsv06C s, exec_rdRsv070 k2 s, exec_rdRsv080 k5 s,
      exec_rdRsv100 k6 s, exec_rdRsv200 k7 s, exec_rdRsv400 k8 s, exec_rdRsv800 k9 s, nofun⟩,
    ⟨exec_wrRsv034 v s, exec_wrRsv04C v s, exec_wrRsv06C v s, exec_wrRsv070 k2 v s, exec_wrRsv080 k5 v s,
      exec_wrRsv100 k6 v s, exec_wrRsv200 k7 v s, exec_wrRsv400 k8 v s, exec_wrRsv800 k9 v s, nofun⟩⟩

/-- An offset whose read returns 0 and whose write is ignored, in every state. -/
structure InertOffset (off : Nat) : Prop where
  read : ∀ s, exec (decodeRead off) s = openRead 0#32 s
  write : ∀ v s, exec (decodeWrite off v) s = ignoredWrite s

theorem InertOffset.of_row {off : Nat} {r : Instr} {w : Word → Instr}
    (hrow : decodeRead off = r ∧ ∀ v, decodeWrite off v = w v) (hread : ∀ s, exec r s = openRead 0#32 s)
    (hwrite : ∀ v s, exec (w v) s = ignoredWrite s) : InertOffset off := by
  obtain ⟨hr, hw⟩ := hrow
  exact ⟨hr ▸ hread, fun v => hw v ▸ hwrite v⟩

/-- Every reserved offset is inert, by the row of the opcode table that holds it. -/
theorem inertOffset_of_reserved {off : Nat} (halign : off % 4 = 0) (hframe : off < 0x1000)
    (hoff : off = 0x034 ∨ off = 0x04C ∨ 0x06C ≤ off) : InertOffset off := by
  obtain rfl | rfl | rfl | hrange : off = 0x034 ∨ off = 0x04C ∨ off = 0x06C ∨ 0x070 ≤ off := by omega
  · exact ⟨exec_rdRsv034, exec_wrRsv034⟩
  · exact ⟨exec_rdRsv04C, exec_wrRsv04C⟩
  · exact ⟨exec_rdRsv06C, exec_wrRsv06C⟩
  · obtain ⟨k, rfl⟩ | ⟨k, rfl⟩ | ⟨k, rfl⟩ | ⟨k, rfl⟩ | ⟨k, rfl⟩ | ⟨k, rfl⟩ := exists_reservedWord halign hrange hframe
    · exact .of_row (decode_rsv070 k) (exec_rdRsv070 k) (exec_wrRsv070 k)
    · exact .of_row (decode_rsv080 k) (exec_rdRsv080 k) (exec_wrRsv080 k)
    · exact .of_row (decode_rsv100 k) (exec_rdRsv100 k) (exec_wrRsv100 k)
    · exact .of_row (decode_rsv200 k) (exec_rdRsv200 k) (exec_wrRsv200 k)
    · exact .of_row (decode_rsv400 k) (exec_rdRsv400 k) (exec_wrRsv400 k)
    · exact .of_row (decode_rsv800 k) (exec_rdRsv800 k) (exec_wrRsv800 k)

/-- CTRL reads 0 above bit 2. -/
theorem Ctrl.toNat_word_lt (c : Ctrl) : c.word.toNat < 2 ^ 3 := by
  have hdone := c.doneIE.toNat_le
  have herr := c.errIE.toNat_le
  have hacc := c.accIE.toNat_le
  rw [c.toNat_word]
  omega

/-- STATUS reads 0 above bit 11 and in bits 7 to 5. -/
theorem Status.reserved_bits_word (t : Status) : t.word.toNat < 2 ^ 12 ∧ t.word.toNat / 2 ^ 5 % 2 ^ 3 = 0 := by
  have hbusy := t.busy.toNat_le
  have hdone := t.done.toNat_le
  have herr := t.err.toNat_le
  have hfound := t.found.toNat_le
  have hacc := t.accErr.toNat_le
  have hcode := t.errCode.toNat_code_le
  rw [t.toNat_word]
  omega

/-- A mask keeps the bits it has set. -/
theorem getLsbD_and_mask (v : Word) {m : Word} {i : Nat} (h : m.getLsbD i = true) :
    (v &&& m).getLsbD i = v.getLsbD i := by
  rw [BitVec.getLsbD_and, h, Bool.and_true]

theorem exec_wrCtrl_mask (v : Word) (s : State) : exec (.wrCtrl v) s = exec (.wrCtrl (v &&& 0x80000007#32)) s := by
  have hsrst : srstBit (v &&& 0x80000007#32) = srstBit v := getLsbD_and_mask v rfl
  have henables : Ctrl.ofWord (v &&& 0x80000007#32) = Ctrl.ofWord v := by
    rw [Ctrl.ofWord, getLsbD_and_mask v rfl, getLsbD_and_mask v rfl, getLsbD_and_mask v rfl, Ctrl.ofWord]
  rw [exec_wrCtrl, exec_wrCtrl, hsrst, henables]

theorem exec_wrStatus_mask (v : Word) (s : State) :
    exec (.wrStatus v) s = exec (.wrStatus (v &&& 0x00000016#32)) s := by
  have hclears : s.status.w1c (v &&& 0x00000016#32) = s.status.w1c v := by
    rw [Status.w1c, getLsbD_and_mask v rfl, getLsbD_and_mask v rfl, getLsbD_and_mask v rfl, Status.w1c]
  rw [exec_wrStatus, exec_wrStatus, statusWrite, statusWrite, hclears]

/-- Settles O46: the reserved offsets are inert, the words of CTRL and STATUS are sums that reach no reserved bit, and
their writes look at none. -/
theorem reservedSpaceInert : Obligations.ReservedSpaceInert := by
  intro s v
  refine ⟨fun off halign hle hoff => ?_, ⟨_, exec_rdCtrl s, s.ctrl.toNat_word_lt⟩,
    ⟨_, exec_rdStatus s, s.status.reserved_bits_word⟩, exec_wrCtrl_mask v s, exec_wrStatus_mask v s⟩
  have hframe : off < 0x1000 := by omega
  have hinert := inertOffset_of_reserved halign hframe hoff
  exact ⟨⟨_, decode_read_iff.2 ⟨⟨rfl, halign, hframe⟩, rfl⟩, hinert.read s⟩,
    ⟨_, decode_write_iff.2 ⟨⟨rfl, halign, hframe⟩, rfl⟩, hinert.write v s⟩⟩

/-! ### The window (43_control.md R255 to R258) -/

/-- Inside the buffer BUF_ADDR advances without wrapping, BUF_BYTES being a word. -/
theorem toNat_bufAddr_add {s : State} {n : Nat} (hin : s.bufAddr.toNat + n ≤ s.bufBytes) :
    (s.bufAddr + BitVec.ofNat 32 n).toNat = s.bufAddr.toNat + n := by
  have hsize : s.bufBytes < 2 ^ 32 := s.bufSize.isLt
  rw [BitVec.toNat_add, BitVec.toNat_ofNat, Nat.add_mod_mod, Nat.mod_eq_of_lt (by omega)]

theorem memRead_one (s : State) (a : Nat) : s.memRead a 1 = [s.peek a] := rfl

theorem memRead_four (s : State) (a : Nat) :
    s.memRead a 4 = [s.peek a, s.peek (a + 1), s.peek (a + 2), s.peek (a + 3)] := rfl

/-- Settles O48: the word is packed from what the buffer admits at BUF_ADDR. -/
theorem windowReadsComplete : Obligations.WindowReadsComplete := by
  intro s hidle
  refine ⟨fun hin => ?_, fun hin => ?_⟩
  · have hread := exec_read_idle (exec_rdBufData8 s) hidle
    rw [windowRead_inside 1 s hin, memRead_one, packLE_one] at hread
    exact ⟨_, _, _, admits_memRead s _ 1, toNat_bufAddr_add hin, hread⟩
  · have hread := exec_read_idle (exec_rdBufData32 s) hidle
    rw [windowRead_inside 4 s hin, memRead_four, packLE_four] at hread
    exact ⟨_, _, _, _, _, _, admits_memRead s _ 4, toNat_bufAddr_add hin, hread⟩

/-- Settles O49: the bytes written are the low byte, or the four bytes of the concatenation from its end. -/
theorem windowWritesComplete : Obligations.WindowWritesComplete := by
  intro s v hidle
  refine ⟨fun hin => ?_, ?_⟩
  · have hwrite := exec_write_idle (exec_wrBufData8 v s) hidle
    rw [windowWrite_inside [lowByte v] s hin, lowByte_eq_ofNat] at hwrite
    exact ⟨_, _, Memory.stored_write _ _ _, toNat_bufAddr_add hin, hwrite⟩
  · rintro b3 b2 b1 b0 rfl hin
    have hwrite := exec_wrBufData32_inside s (b3 ++ b2 ++ b1 ++ b0) hidle hin
    rw [bytesLE_append] at hwrite
    exact ⟨_, _, Memory.stored_write _ _ _, toNat_bufAddr_add hin, hwrite⟩

/-- Settles O50: out of range a window access only sets ACC_ERR, as a rejected one does. -/
theorem windowOutOfRange : Obligations.WindowOutOfRange := by
  intro s v hidle
  refine ⟨fun hout => ⟨?_, ?_⟩, fun hout => ⟨?_, ?_⟩⟩
  · rw [exec_read_idle (exec_rdBufData8 s) hidle, windowRead_outside 1 s (Nat.lt_succ_of_le hout)]
    rfl
  · rw [exec_write_idle (exec_wrBufData8 v s) hidle, windowWrite_outside [lowByte v] s (Nat.lt_succ_of_le hout)]
    rfl
  · rw [exec_read_idle (exec_rdBufData32 s) hidle, windowRead_outside 4 s hout]
    rfl
  · rw [exec_write_idle (exec_wrBufData32 v s) hidle, windowWrite_outside (bytesLE v) s hout]
    rfl

/-! ### Starts and steps (43_control.md R240, R241) -/

/-- Settles O53: a guarded write that starts the command. -/
theorem writeCmdStarts : Obligations.WriteCmdStarts := fun s v hidle =>
  ⟨Config.busyAccesses s.draws, s.draws + 1, exec_write_idle (exec_wrCmd v s) hidle⟩

theorem step_engine {s : State} (hturn : s.engineTurn = true) : step s = exec (decodeCommand s.curCmd) s := by
  rw [step, if_pos hturn]

theorem perform_ok (i : Instr) (s : State) : perform (.ok i) s = exec i s := rfl

/-- An access that stands first is run as the instruction it decodes to. -/
theorem step_access_decoded {s : State} {a : HostAccess} {rest : List HostEvent} {i : Instr}
    (hturn : s.engineTurn = false) (hin : s.inputs = .access a :: rest) (hdecode : decode (.access a) = .ok i) :
    step s = exec i (s.accepting rest) := by
  change decodeAccess a = .ok i at hdecode
  rw [step_access hturn hin, hdecode, perform_ok]

/-- So is an access by host address, which decodes as the access at its offset. -/
theorem step_bus_decoded {s : State} {a : HostAccess} {rest : List HostEvent} {i : Instr}
    (hturn : s.engineTurn = false) (hin : s.inputs = .bus a.onBus :: rest) (hdecode : decode (.access a) = .ok i) :
    step s = exec i (s.accepting rest) := by
  change decodeAccess a = .ok i at hdecode
  rw [step_bus hturn hin, decodeBus_onBus, hdecode, perform_ok]

theorem step_waitIrq {s : State} {rest : List HostEvent} (hturn : s.engineTurn = false)
    (hin : s.inputs = .waitIrq :: rest) : step s = .next (if s.irq = true then { s with inputs := rest } else s) := by
  simp [step, hturn, hin]

/-- Settles O6: by who moves next, and by the event that stands first. -/
theorem stepRunsDecodedInstruction : Obligations.StepRunsDecodedInstruction := by
  refine ⟨fun s i hturn hdecode => ?_, fun _ _ _ _ => step_access_decoded,
    fun _ off _ _ => step_bus_decoded (a := .read .w32 off), fun _ off v _ _ => step_bus_decoded (a := .write .w32 off v),
    fun _ _ => step_waitIrq⟩
  cases hdecode
  exact step_engine hturn

end Sys2Proof.Machine

/-! PROOF of the family 60_exceptions: errors are precise (O38). ERR rises in a raise alone, and each body raises before its
first write of the buffer or of an accumulator. -/

namespace Sys2Proof.Machine

/-- A body that came to its end takes no error: ERR is as the command found it. -/
theorem Run.Framed.done_finish_err {s u : State} (hr : (Run.done () u).Framed s) :
    (Run.done () u).finish.status.err = s.status.err :=
  congrArg (·.status.err) hr.frame.same

/-- A body that set ERR raised, and what it leaves is what a raise leaves (60_exceptions.md R278). -/
theorem Run.Framed.finish_precise {s : State} {r : Run Unit} (hr : r.Framed s) (hclear : s.status.err = false)
    (herr : r.finish.status.err = true) :
    r.finish.mem = s.mem ∧ r.finish.crcState = s.crcState ∧ r.finish.adlerValue = s.adlerValue := by
  cases r with
  | done a u =>
    rw [hr.done_finish_err, hclear] at herr
    cases herr
  | raised e info u =>
    obtain ⟨-, hmem, hcrc, hadler, -⟩ := hr.raise e info u rfl
    exact ⟨hmem, hcrc, hadler⟩

/-- Settles O38: by how the command's body ended. -/
theorem errorsArePrecise : Obligations.ErrorsArePrecise := by
  intro s t i hi hclear hexec herr
  rw [exec_command i s hi] at hexec
  cases hexec
  exact (bodyOf_framed i s).finish_precise hclear herr

end Sys2Proof.Machine

/-! PROOFS of the family 70_reset_and_hazards: what the resets restore and forget (O58 to O60), that the reset state meets
the invariant (O9), and that a POLL ends (O7). A reset leaves the reset state but for the fields it keeps, so what is left
to say of it is its buffer; a POLL counts `wait` down to the engine's turn, whatever the command in flight is. -/

namespace Sys2Proof.Machine

/-! ### The reset state (70_reset_and_hazards.md R301, R305) -/

/-- Settles O58: by the fields of the reset state; no byte is listed. -/
theorem resetValues : Obligations.ResetValues :=
  ⟨rfl, rfl, rfl, rfl, rfl, rfl, rfl, rfl, rfl, rfl, rfl, fun _ => rfl⟩

/-- Settles O9: by the parts of the invariant, each at its reset value. -/
theorem resetMeetsInvariant : Obligations.ResetMeetsInvariant :=
  (State.inv_iff State.reset).2
    ⟨by decide, Memory.canonical_nil _, Status.consistent_reset, Results.legal_reset _⟩

/-! ### What a reset keeps (70_reset_and_hazards.md R300 to R302, R304) -/

/-- A reset leaves nothing of the state but BUF_SIZE, the buffer and the model's own fields. -/
theorem registersReset_eq (s : State) :
    registersReset s = { State.reset with
      bufSize := s.bufSize, curCmd := Config.freeWord s.draws, mem := s.mem, inputs := s.inputs
      draws := s.draws + 1, readData := s.readData } := rfl

theorem powerOnReset_eq (s : State) :
    powerOnReset s = { State.reset with
      bufSize := s.bufSize, curCmd := Config.freeWord s.draws, inputs := s.inputs
      draws := s.draws + 1, readData := s.readData } := by
  rw [powerOnReset, registersReset_eq]
  rfl

theorem step_powerOn {s : State} {rest : List HostEvent} (hturn : s.engineTurn = false)
    (hin : s.inputs = .powerOn :: rest) : step s = .next (powerOnReset { s with inputs := rest }) := by
  simp [step, hturn, hin]

/-- Settles O60: by the step that meets RST, and what a power-on reset leaves. -/
theorem powerOnRestores : Obligations.PowerOnRestores := by
  intro s rest hturn hin
  refine ⟨Config.freeWord s.draws, s.draws + 1, ?_⟩
  rw [step_powerOn hturn hin, powerOnReset_eq]

/-! ### The write set of an aborted command (70_reset_and_hazards.md R303) -/

/-- The address lies in one of the spans (first address, length). -/
def inSpans (spans : List (Nat × Nat)) (a : Nat) : Bool :=
  spans.any fun sp => decide (sp.1 ≤ a) && decide (a < sp.1 + sp.2)

@[simp] theorem inSpans_nil (a : Nat) : inSpans [] a = false := rfl

@[simp] theorem inSpans_cons_iff (sp : Nat × Nat) (spans : List (Nat × Nat)) (a : Nat) :
    inSpans (sp :: spans) a = true ↔ (sp.1 ≤ a ∧ a < sp.1 + sp.2) ∨ inSpans spans a = true := by
  simp [inSpans]

theorem inSpans_guarded_iff (p : Prop) [Decidable p] (spans : List (Nat × Nat)) (a : Nat) :
    inSpans (if p then spans else []) a = true ↔ p ∧ inSpans spans a = true := by
  by_cases hp : p <;> simp [hp]

/-- Forgetting spans leaves their bytes unwritten and the others as before. -/
theorem lookup_forgetSpans (m : Memory) (spans : List (Nat × Nat)) (a : Nat) :
    (forgetSpans m spans).lookup a = if inSpans spans a = true then none else m.lookup a := by
  induction spans generalizing m with
  | nil => rfl
  | cons sp spans ih =>
    calc (forgetSpans m (sp :: spans)).lookup a
        = if inSpans spans a = true then none else (m.forget sp.1 sp.2).lookup a := ih (m.forget sp.1 sp.2)
      _ = if inSpans (sp :: spans) a = true then none else m.lookup a := by
        rw [Memory.lookup_forget]
        by_cases hhead : sp.1 ≤ a ∧ a < sp.1 + sp.2 <;> simp [hhead]

/-- The decoder gives a command for its own word alone. -/
theorem decodeCommand_eq_iff {i : Instr} {v : Word} (hwf : i.wf = true) (hi : encode i = .command v) (w : Word) :
    decodeCommand w = i ↔ w = v := by
  constructor
  · rintro rfl
    rw [(encode_decodeCommand w).1] at hi
    exact Transaction.command.inj hi
  · rintro rfl
    have hdecode : decode (.command w) = .ok i := hi ▸ decode_encode hwf
    exact Except.ok.inj hdecode

/-- The bytes of the write set, by the command in flight. -/
theorem inSpans_writeSet_iff (s : State) (a : Nat) :
    inSpans (writeSet s) a = true ↔
      ((s.curCmd = 0x00000003#32 ∨ s.curCmd = 0x0000000A#32) ∧ s.arg0.toNat + 4 ≤ s.bufBytes
        ∧ s.arg0.toNat ≤ a ∧ a < s.arg0.toNat + 4)
      ∨ (s.curCmd = 0x00000010#32 ∧ s.arg0.toNat + 8 ≤ s.bufBytes
        ∧ s.arg0.toNat ≤ a ∧ a < s.arg0.toNat + 8)
      ∨ (s.curCmd = 0x00000012#32 ∧ s.arg1.toNat ≤ 0x7FFFFFFF
        ∧ s.arg0.toNat + 12 + s.arg1.toNat ≤ s.bufBytes
        ∧ ((s.arg0.toNat ≤ a ∧ a < s.arg0.toNat + 8)
          ∨ (s.arg0.toNat + 8 + s.arg1.toNat ≤ a ∧ a < s.arg0.toNat + 12 + s.arg1.toNat))) := by
  rw [← decodeCommand_eq_iff (i := .crcStore) rfl rfl, ← decodeCommand_eq_iff (i := .adlerStore) rfl rfl,
    ← decodeCommand_eq_iff (i := .sigWrite) rfl rfl, ← decodeCommand_eq_iff (i := .chunkBuild) rfl rfl, writeSet]
  split
  · next hcmd => simp [hcmd, inSpans_guarded_iff, State.argAddr]
  · next hcmd => simp [hcmd, inSpans_guarded_iff, State.argAddr]
  · next hcmd => simp [hcmd, inSpans_guarded_iff, State.argAddr]
  · next hcmd =>
    simp only [hcmd, inSpans_guarded_iff, inSpans_cons_iff, inSpans_nil, Bool.and_eq_true, decide_eq_true_iff,
      inRange_iff, reduceCtorEq, Bool.false_eq_true, or_false, false_or, false_and, true_and]
    unfold State.argAddr State.argLen
    omega
  · next hcrc hadler hsig hchunk =>
    simp [eq_false hcrc, eq_false hadler, eq_false hsig, eq_false hchunk]

theorem srstBit_eq_true {v : Word} (h : 2 ^ 31 ≤ v.toNat) : srstBit v = true := by
  have hlt : v.toNat < 2 ^ 32 := v.isLt
  rw [srstBit, getLsbD_eq_decide, decide_eq_true_iff]
  omega

/-- Settles O59: the registers are reset over the buffer of the aborted or idle state. -/
theorem softResetRestores : Obligations.SoftResetRestores := by
  intro s v hv
  have hexec : exec (.wrCtrl v) s = .next (softReset s) := by
    rw [exec_wrCtrl, if_pos (srstBit_eq_true hv)]
  cases hbusy : s.status.busy with
  | false =>
    refine ⟨s.mem, Config.freeWord s.draws, s.draws + 1, ?_, fun _ => rfl, fun h => ?_⟩
    · rw [hexec, softReset, hbusy, if_neg Bool.false_ne_true, registersReset_eq]
    · cases h
  | true =>
    refine ⟨forgetSpans s.mem (writeSet s), Config.freeWord s.draws, s.draws + 1, ?_, fun h => ?_, fun _ a => ?_⟩
    · rw [hexec, softReset, hbusy, if_pos rfl, registersReset_eq]
      rfl
    · cases h
    · rw [lookup_forgetSpans]
      exact if_congr (inSpans_writeSet_iff s a) rfl rfl

/-! ### A POLL (30_encoding.md R112, 70_reset_and_hazards.md R309) -/

/-- Bit 0 of a read of STATUS is BUSY. -/
theorem Status.word_bit_zero (t : Status) : t.word.getLsbD 0 = t.busy := by
  cases hbusy : t.busy <;> simp [Status.word, bit, hbusy]

/-- A POLL reads STATUS and stands first again while it read BUSY = 1. -/
theorem step_poll_reads {s : State} {rest : List HostEvent} (hturn : s.engineTurn = false)
    (hin : s.inputs = .poll :: rest) :
    step s = .next { s with
      inputs := if s.status.busy = true then .poll :: rest else rest
      wait := s.wait - 1, readData := s.status.word } := by
  rw [step_poll hturn hin, State.pollAgain, returns_readData, Status.word_bit_zero]
  cases s.status.busy <;> rfl

theorem engineTurn_of_idle {s : State} (hidle : s.status.busy = false) : s.engineTurn = false := by
  rw [State.engineTurn, hidle, Bool.false_and]

theorem engineTurn_of_poll {s : State} {rest : List HostEvent} (hin : s.inputs = .poll :: rest) (hwait : s.wait ≠ 0) :
    s.engineTurn = false := by
  simp [State.engineTurn, State.hostIdle, hin, hwait]

theorem engineTurn_of_wait_zero {s : State} (hbusy : s.status.busy = true) (hwait : s.wait = 0) :
    s.engineTurn = true := by
  simp [State.engineTurn, hbusy, hwait]

theorem isCommand_decodeCommand (w : Word) : isCommand (decodeCommand w) = true := by
  rw [isCommand, (encode_decodeCommand w).1]

/-- Settles O7: by induction on the accesses that still come before the completion; at 0 the engine completes the command
and the next read of STATUS ends the POLL. -/
theorem pollEndsAfterCompletion : Obligations.PollEndsAfterCompletion := by
  intro s rest hbusy hin
  induction hwait : s.wait generalizing s with
  | zero =>
    obtain ⟨u, hexec, hidle, hdone, -, -, -, -, -, -, -, -, hinputs, hwaits, -⟩ :=
      commandsCompleteAndKeepOperands s (decodeCommand s.curCmd) (isCommand_decodeCommand _)
    have hdue : { s with wait := 0, readData := s.readData } = s := by rw [← hwait]
    have hcomplete : step s = .next u := (step_engine (engineTurn_of_wait_zero hbusy hwait)).trans hexec
    have hover : step u = .next { u with inputs := rest, readData := u.status.word } := by
      rw [step_poll_reads (engineTurn_of_idle hidle) (hinputs.trans hin), hidle, hwaits, hwait]
      rfl
    refine ⟨s.readData, u, by rw [hdue]; exact hexec, hidle, hdone, ?_⟩
    exact (run_succ 1 hcomplete).trans (run_succ 0 hover)
  | succ k ih =>
    have hagain : step s = .next { s with wait := k, readData := s.status.word } := by
      rw [step_poll_reads (engineTurn_of_poll hin (by omega)) hin, if_pos hbusy, hwait, hin]
      rfl
    obtain ⟨r, u, hexec, hidle, hdone, hrun⟩ := ih { s with wait := k, readData := s.status.word } hbusy hin rfl
    exact ⟨r, u, hexec, hidle, hdone, (run_succ (k + 2) hagain).trans hrun⟩

end Sys2Proof.Machine
